-- ==== Sys2Proof/Word.lean ====
section
/-! DEFINITION. The word types: a byte, a 16-bit register value, a 32-bit command word, an endpoint number. -/

namespace Sys2Proof

/-- One byte of packet memory, of the RX buffer or of a data operand (20_memory.md R70). -/
abbrev Byte := BitVec 8

/-- The value of an endpoint register, and of an immediate (10_state.md R33, 30_encoding.md R100). -/
abbrev Half := BitVec 16

/-- A command word (30_encoding.md R100). -/
abbrev CmdWord := BitVec 32

/-- An endpoint number as the EP field holds it, 0 to 15 (30_encoding.md R100, R102). -/
abbrev EpNum := BitVec 4

end Sys2Proof
end

