-- ==== Sys2Proof/Config.lean ====
section
/-! DEFINITION. The implementation parameters of 00_scope.md R11, and the free values: what the spec leaves to a draw. -/

namespace Sys2Proof

/-- The parameters of 00_scope.md R11. The spec leaves them OPEN, so they are data: every claim about a state
is a claim about every choice of them (log 1). `RX_CAP` and `TX_CLAMP` are computed from `MAX_PACKET`. -/
structure Params where
  /-- `NUM_EP` -/
  numEp : Nat
  /-- `MAX_PACKET` -/
  maxPacket : Nat
  /-- `EP_IN` -/
  epIn : EpNum
  /-- `EP_OUT` -/
  epOut : EpNum
  /-- `EP_NOTIFY` -/
  epNotify : EpNum
  /-- `PMA_SIZE` -/
  pmaSize : Nat
  /-- `PMA_TX_ADDR` -/
  pmaTxAddr : Half
  /-- `PMA_RX_ADDR` -/
  pmaRxAddr : Half
  /-- `RX_AUTO_NAK` -/
  rxAutoNak : Bool
  /-- `DRAIN_EMPTY_REARMS` -/
  drainEmptyRearms : Bool
  /-- `EPR_BASE`, which no rule uses (20_memory.md R79) -/
  eprBase : BitVec 32
  deriving DecidableEq, Repr

/-- `RX_CAP = 3 * MAX_PACKET` (00_scope.md R11). -/
def Params.rxCap (p : Params) : Nat := 3 * p.maxPacket

/-- `TX_CLAMP = MAX_PACKET / 2` (00_scope.md R11). -/
def Params.txClamp (p : Params) : Nat := p.maxPacket / 2

/-- The constraints of 00_scope.md R11, 20_memory.md R71 and R74 and 70_reset_and_hazards.md R262 on the
parameters: a model given others refuses the configuration. -/
abbrev Params.Legal (p : Params) : Prop :=
  (1 ≤ p.numEp ∧ p.numEp ≤ 16)
  ∧ (p.maxPacket = 8 ∨ p.maxPacket = 16 ∨ p.maxPacket = 32 ∨ p.maxPacket = 64)
  ∧ (1 ≤ p.epIn.toNat ∧ p.epIn.toNat < p.numEp)
  ∧ (1 ≤ p.epOut.toNat ∧ p.epOut.toNat < p.numEp)
  ∧ (1 ≤ p.epNotify.toNat ∧ p.epNotify.toNat < p.numEp)
  ∧ (p.epOut ≠ p.epIn ∧ p.epOut ≠ p.epNotify ∧ p.epNotify ≠ p.epIn)
  ∧ (p.pmaTxAddr.toNat % 2 = 0 ∧ p.pmaTxAddr.toNat + p.maxPacket ≤ p.pmaSize)
  ∧ (p.pmaRxAddr.toNat % 2 = 0 ∧ p.pmaRxAddr.toNat + p.maxPacket ≤ p.pmaSize)
  ∧ (p.pmaTxAddr.toNat + p.maxPacket ≤ p.pmaRxAddr.toNat
      ∨ p.pmaRxAddr.toNat + p.maxPacket ≤ p.pmaTxAddr.toNat)

/-- The standard parameters of 95_test_vectors.md. DESIGN CHOICE (log 1): `State.reset` takes this set; unsafe
for a claim about `State.reset` alone, none of the values being the source's. `eprBase` is the STM32F103's
(20_memory.md R79). -/
def Params.standard : Params where
  numEp := 8
  maxPacket := 64
  epIn := 1
  epOut := 3
  epNotify := 2
  pmaSize := 512
  pmaTxAddr := 0x40
  pmaRxAddr := 0x80
  rxAutoNak := true
  drainEmptyRearms := false
  eprBase := 0x40005C00

namespace Config

/-! The draws of 10_state.md R59 (log 9). Each has no body: nothing can be proved about its value. The first
argument counts RESETs, so that every RESET draws anew. -/

/-- `PMA[a]` after the `n`-th RESET, until it is written. -/
opaque pmaDraw (n a : Nat) : Byte
/-- `RxBuf[a]` after the `n`-th RESET, until it is written. -/
opaque rxBufDraw (n a : Nat) : Byte
/-- `BDT[ep].tx_addr` after the `n`-th RESET. -/
opaque txAddrDraw (n ep : Nat) : Half
/-- `BDT[ep].tx_count` after the `n`-th RESET. -/
opaque txCountDraw (n ep : Nat) : BitVec 10
/-- `BDT[ep].rx_addr` after the `n`-th RESET. -/
opaque rxAddrDraw (n ep : Nat) : Half
/-- `BDT[ep].rx_capacity` after the `n`-th RESET. -/
opaque rxCapacityDraw (n ep : Nat) : Fin 1024
/-- `BDT[ep].rx_count` after the `n`-th RESET. -/
opaque rxCountDraw (n ep : Nat) : BitVec 10

/-! The items of the infinite TASK programs of 00_scope.md R18 (log 27): item `n` of stream `k`. None has a body, so a claim
about a stream is a claim about every infinite sequence of items. -/

/-- The byte of PUTC, if item `n` is PUTC. -/
opaque taskPutc (k n : Nat) : Option Byte
/-- The word of item `n`, if it is a command. -/
opaque taskWord (k n : Nat) : CmdWord
/-- The data operand of item `n`, if it is a command. -/
opaque taskData (k n : Nat) : List Byte

end Config

end Sys2Proof
end

