-- ==== Sys2Proof/Syntax.lean ====
section
/-! DEFINITION. The commands as syntax: the selector values, one constructor of Instr per row of the opcode map
(30_encoding.md R104), the source's own names for them (R120) and the assembler spelling (R119). -/

namespace Sys2Proof

/-- Endpoint status (30_encoding.md R110). -/
inductive EpStatus where
  | disabled
  | stall
  | nak
  | valid
  deriving DecidableEq, Repr

/-- The 2-bit code of a status (30_encoding.md R110). -/
def EpStatus.code : EpStatus → BitVec 2
  | .disabled => 0b00
  | .stall => 0b01
  | .nak => 0b10
  | .valid => 0b11

/-- The status a 2-bit code stands for; every code is legal (30_encoding.md R110). -/
def EpStatus.ofCode (c : BitVec 2) : EpStatus :=
  if c = 0b00 then .disabled else if c = 0b01 then .stall else if c = 0b10 then .nak else .valid

/-- Endpoint type (30_encoding.md R111). -/
inductive EpType where
  | bulk
  | control
  | isochronous
  | interrupt
  deriving DecidableEq, Repr

/-- The 2-bit code of a type (30_encoding.md R111). -/
def EpType.code : EpType → BitVec 2
  | .bulk => 0b00
  | .control => 0b01
  | .isochronous => 0b10
  | .interrupt => 0b11

/-- The type a 2-bit code stands for; every code is legal (30_encoding.md R111). -/
def EpType.ofCode (c : BitVec 2) : EpType :=
  if c = 0b00 then .bulk else if c = 0b01 then .control
  else if c = 0b10 then .isochronous else .interrupt

/-- Dispatch source (30_encoding.md R114). -/
inductive DispatchSource where
  | rx
  | tx
  | setup
  deriving DecidableEq, Repr

/-- The 2-bit code of a dispatch source (30_encoding.md R114). -/
def DispatchSource.code : DispatchSource → BitVec 2
  | .rx => 0b00
  | .tx => 0b01
  | .setup => 0b10

/-- The source a 2-bit code stands for; `11` is reserved (30_encoding.md R114). -/
def DispatchSource.ofCode (c : BitVec 2) : Option DispatchSource :=
  if c = 0b00 then some .rx else if c = 0b01 then some .tx
  else if c = 0b10 then some .setup else none

/-- One constructor per row of the opcode map (30_encoding.md R104). The data operand is no part of the word
(R118): it comes beside it. -/
inductive Instr where
  | epSetRxStatus (ep : EpNum) (status : EpStatus)
  | epSetTxStatus (ep : EpNum) (status : EpStatus)
  | epSetType (ep : EpNum) (type : EpType)
  | rxComplete
  | rxAvailable
  | rxDrain (maxLen : Half)
  | txSubmit (len : Half)
  | txComplete
  | txPending
  | ctrlSetLineState (value : Half)
  | dtrAsserted
  | rtsAsserted
  | resetStateRead
  | classRequest
  | enable
  | disable
  | hostOut (ep : EpNum) (len : Half)
  | hostIn (ep : EpNum)
  | hostSetup
  | intDispatch (ep : EpNum) (src : DispatchSource)
  deriving DecidableEq, Repr

/-- The mnemonic of a command (30_encoding.md R104). -/
def Instr.mnemonic : Instr → String
  | .epSetRxStatus _ _ => "EP_SET_RX_STATUS"
  | .epSetTxStatus _ _ => "EP_SET_TX_STATUS"
  | .epSetType _ _ => "EP_SET_TYPE"
  | .rxComplete => "RX_COMPLETE"
  | .rxAvailable => "RX_AVAILABLE"
  | .rxDrain _ => "RX_DRAIN"
  | .txSubmit _ => "TX_SUBMIT"
  | .txComplete => "TX_COMPLETE"
  | .txPending => "TX_PENDING"
  | .ctrlSetLineState _ => "CTRL_SET_LINE_STATE"
  | .dtrAsserted => "DTR_ASSERTED"
  | .rtsAsserted => "RTS_ASSERTED"
  | .resetStateRead => "RESET_STATE_READ"
  | .classRequest => "CLASS_REQUEST"
  | .enable => "ENABLE"
  | .disable => "DISABLE"
  | .hostOut _ _ => "HOST_OUT"
  | .hostIn _ => "HOST_IN"
  | .hostSetup => "HOST_SETUP"
  | .intDispatch _ _ => "INT_DISPATCH"

/-- The number of bytes a command's data operand has (30_encoding.md R118). -/
def Instr.dataLength : Instr → Nat
  | .txSubmit len => len.toNat
  | .hostOut _ len => len.toNat
  | .classRequest => 8
  | .hostSetup => 8
  | .epSetRxStatus _ _ | .epSetTxStatus _ _ | .epSetType _ _ | .rxComplete | .rxAvailable
  | .rxDrain _ | .txComplete | .txPending | .ctrlSetLineState _ | .dtrAsserted | .rtsAsserted
  | .resetStateRead | .enable | .disable | .hostIn _ | .intDispatch _ _ => 0

/-- The endpoint a command names, if it names one (30_encoding.md R101). -/
def Instr.endpoint : Instr → Option EpNum
  | .epSetRxStatus ep _ => some ep
  | .epSetTxStatus ep _ => some ep
  | .epSetType ep _ => some ep
  | .hostOut ep _ => some ep
  | .hostIn ep => some ep
  | .intDispatch ep _ => some ep
  | .rxComplete | .rxAvailable | .rxDrain _ | .txSubmit _ | .txComplete | .txPending
  | .ctrlSetLineState _ | .dtrAsserted | .rtsAsserted | .resetStateRead | .classRequest
  | .enable | .disable | .hostSetup => none

/-! The source's names for the commands (30_encoding.md R120): aliases, which spell the same words. -/

/-- `setRxStatus(ep, status)` -/
abbrev Api.setRxStatus (ep : EpNum) (status : EpStatus) : Instr := .epSetRxStatus ep status
/-- `setTxStatus(ep, status)` -/
abbrev Api.setTxStatus (ep : EpNum) (status : EpStatus) : Instr := .epSetTxStatus ep status
/-- `setType(ep, type)` -/
abbrev Api.setType (ep : EpNum) (type : EpType) : Instr := .epSetType ep type
/-- `onReceiveComplete()` -/
abbrev Api.onReceiveComplete : Instr := .rxComplete
/-- `available()` -/
abbrev Api.available : Instr := .rxAvailable
/-- `drain(dst, maxLen)` -/
abbrev Api.drain (maxLen : Half) : Instr := .rxDrain maxLen
/-- `read(buf, len)` -/
abbrev Api.read (len : Half) : Instr := .rxDrain len
/-- `submit(buf, len)` -/
abbrev Api.submit (len : Half) : Instr := .txSubmit len
/-- `write(buf, len)` -/
abbrev Api.write (len : Half) : Instr := .txSubmit len
/-- `onTransmitComplete()` -/
abbrev Api.onTransmitComplete : Instr := .txComplete
/-- `pending()` -/
abbrev Api.pending : Instr := .txPending
/-- `pendingWrite()` -/
abbrev Api.pendingWrite : Instr := .txPending
/-- `dtrAsserted()` -/
abbrev Api.dtrAsserted : Instr := .dtrAsserted
/-- `rtsAsserted()` -/
abbrev Api.rtsAsserted : Instr := .rtsAsserted
/-- `enable()` -/
abbrev Api.enable : Instr := .enable
/-- `disable()` -/
abbrev Api.disable : Instr := .disable

/-! The assembler spelling (30_encoding.md R119). -/

/-- The spelling of a status in a command. -/
def EpStatus.asm : EpStatus → String
  | .disabled => "DISABLED"
  | .stall => "STALL"
  | .nak => "NAK"
  | .valid => "VALID"

/-- The spelling of a type in a command. -/
def EpType.asm : EpType → String
  | .bulk => "BULK"
  | .control => "CONTROL"
  | .isochronous => "ISO"
  | .interrupt => "INTERRUPT"

/-- The spelling of a dispatch source in a command. -/
def DispatchSource.asm : DispatchSource → String
  | .rx => "RX"
  | .tx => "TX"
  | .setup => "SETUP"

/-- A byte list in decimal numbers, `[b0, b1, ...]`. -/
def asmBytes (data : List Byte) : String :=
  "[" ++ String.intercalate ", " (data.map fun b => toString b.toNat) ++ "]"

/-- A command with its data operand as the assembler writes it: the mnemonic, then the operands separated by
commas. -/
def Instr.asm (i : Instr) (data : List Byte) : String :=
  let operands : List String := match i with
    | .epSetRxStatus ep st => [toString ep.toNat, st.asm]
    | .epSetTxStatus ep st => [toString ep.toNat, st.asm]
    | .epSetType ep ty => [toString ep.toNat, ty.asm]
    | .rxDrain n => [toString n.toNat]
    | .txSubmit n => [toString n.toNat, asmBytes data]
    | .ctrlSetLineState v => [toString v.toNat]
    | .classRequest => [asmBytes data]
    | .hostOut ep n => [toString ep.toNat, toString n.toNat, asmBytes data]
    | .hostIn ep => [toString ep.toNat]
    | .hostSetup => [asmBytes data]
    | .intDispatch ep src => [toString ep.toNat, src.asm]
    | .rxComplete | .rxAvailable | .txComplete | .txPending | .dtrAsserted | .rtsAsserted
    | .resetStateRead | .enable | .disable => []
  if operands.isEmpty then i.mnemonic else i.mnemonic ++ " " ++ String.intercalate ", " operands

end Sys2Proof
end

