-- ==== Sys2Proof/WellFormed.lean ====
section
/-! DEFINITION. When a command is well formed: what a command word can spell for given parameters. -/

namespace Sys2Proof

/-- The endpoint a command names exists: `ep < NUM_EP` (30_encoding.md R102). -/
def Instr.endpointExists (p : Params) (i : Instr) : Bool :=
  match i.endpoint with
  | some ep => ep.toNat < p.numEp
  | none => true

/-- A dispatch of the SETUP source names endpoint 0 (30_encoding.md R114). -/
def Instr.sourceFits : Instr → Bool
  | .intDispatch ep .setup => ep = 0
  | _ => true

/-- A well-formed command: it names an existing endpoint and a possible dispatch source. -/
def Instr.wellFormed (p : Params) (i : Instr) : Bool :=
  i.endpointExists p && i.sourceFits

/-- `wellFormed` as a proposition. -/
abbrev Instr.WellFormed (p : Params) (i : Instr) : Prop := i.wellFormed p = true

end Sys2Proof
end

