-- ==== Sys2Proof/Decode.lean ====
section
/-! DEFINITION. The command word (30_encoding.md R100 to R105, R117): its fields, the decoder, the encoder, and the
rows of the opcode map as match and mask. -/

namespace Sys2Proof

/-- The five fields of a command word (30_encoding.md R100). -/
structure Fields where
  opc : BitVec 8
  ep : EpNum
  sel : BitVec 2
  res : BitVec 2
  imm : Half
  deriving DecidableEq, Repr

/-- The fields of a word: OPC 31:24, EP 23:20, SEL 19:18, RES 17:16, IMM16 15:0 (30_encoding.md R100). -/
def Fields.ofWord (w : CmdWord) : Fields where
  opc := w.extractLsb' 24 8
  ep := w.extractLsb' 20 4
  sel := w.extractLsb' 18 2
  res := w.extractLsb' 16 2
  imm := w.extractLsb' 0 16

/-- The word with the given fields. -/
def Fields.toWord (f : Fields) : CmdWord := f.opc ++ f.ep ++ f.sel ++ f.res ++ f.imm

/-- Why the decoder refuses a word; every one is the refusal ILLEGAL_COMMAND (30_encoding.md R117). -/
inductive DecodeError where
  /-- OPC is not in the opcode map (R104). -/
  | unknownOpcode
  /-- RES is not 00 (R100). -/
  | reservedBits
  /-- A field the format does not use is not zero (R101). -/
  | unusedField
  /-- SEL = 11 in INT_DISPATCH (R114). -/
  | reservedSource
  /-- INT_DISPATCH of the SETUP source with EP not 0 (R114). -/
  | setupEndpoint
  deriving DecidableEq, Repr

/-- Format E: OPC, EP and SEL; IMM16 is zero (30_encoding.md R101). -/
def Fields.formatE (f : Fields) (k : EpNum → BitVec 2 → Except DecodeError Instr) :
    Except DecodeError Instr :=
  if f.imm = 0 then k f.ep f.sel else .error .unusedField

/-- Format N: OPC alone (30_encoding.md R101). -/
def Fields.formatN (f : Fields) (i : Instr) : Except DecodeError Instr :=
  if f.ep = 0 ∧ f.sel = 0 ∧ f.imm = 0 then .ok i else .error .unusedField

/-- Format I: OPC and IMM16; EP and SEL are zero (30_encoding.md R101). -/
def Fields.formatI (f : Fields) (k : Half → Instr) : Except DecodeError Instr :=
  if f.ep = 0 ∧ f.sel = 0 then .ok (k f.imm) else .error .unusedField

/-- Format W: OPC, EP and IMM16; SEL is zero (30_encoding.md R101). -/
def Fields.formatW (f : Fields) (k : EpNum → Half → Except DecodeError Instr) :
    Except DecodeError Instr :=
  if f.sel = 0 then k f.ep f.imm else .error .unusedField

/-- INT_DISPATCH's selector: `11` is reserved, and the SETUP source needs EP = 0 (30_encoding.md R114, R117). -/
def decodeDispatch (ep : EpNum) (sel : BitVec 2) : Except DecodeError Instr :=
  match DispatchSource.ofCode sel with
  | none => .error .reservedSource
  | some .setup => if ep = 0 then .ok (.intDispatch ep .setup) else .error .setupEndpoint
  | some src => .ok (.intDispatch ep src)

/-- The opcode map (30_encoding.md R104), on the fields of a word. -/
def decodeFields (f : Fields) : Except DecodeError Instr :=
  if f.res ≠ 0 then .error .reservedBits
  else if f.opc = 0x01 then f.formatE fun ep sel => .ok (.epSetRxStatus ep (EpStatus.ofCode sel))
  else if f.opc = 0x02 then f.formatE fun ep sel => .ok (.epSetTxStatus ep (EpStatus.ofCode sel))
  else if f.opc = 0x03 then f.formatE fun ep sel => .ok (.epSetType ep (EpType.ofCode sel))
  else if f.opc = 0x10 then f.formatN .rxComplete
  else if f.opc = 0x11 then f.formatN .rxAvailable
  else if f.opc = 0x12 then f.formatI .rxDrain
  else if f.opc = 0x20 then f.formatI .txSubmit
  else if f.opc = 0x21 then f.formatN .txComplete
  else if f.opc = 0x22 then f.formatN .txPending
  else if f.opc = 0x30 then f.formatI .ctrlSetLineState
  else if f.opc = 0x31 then f.formatN .dtrAsserted
  else if f.opc = 0x32 then f.formatN .rtsAsserted
  else if f.opc = 0x33 then f.formatN .resetStateRead
  else if f.opc = 0x40 then f.formatN .classRequest
  else if f.opc = 0x50 then f.formatN .enable
  else if f.opc = 0x51 then f.formatN .disable
  else if f.opc = 0x80 then f.formatW fun ep imm => .ok (.hostOut ep imm)
  else if f.opc = 0x81 then
    f.formatW fun ep imm => if imm = 0 then .ok (.hostIn ep) else .error .unusedField
  else if f.opc = 0x82 then f.formatN .hostSetup
  else if f.opc = 0x90 then f.formatE decodeDispatch
  else .error .unknownOpcode

/-- The decoder: total on any word, refusing by name (30_encoding.md R104, R117). The endpoint range, which
depends on NUM_EP, the context and the data operand's length are checked where the command is admitted
(Machine/Operands.lean). -/
def decode (w : CmdWord) : Except DecodeError Instr := decodeFields (Fields.ofWord w)

/-- The fields of a command (30_encoding.md R101, R104). -/
def Instr.fields : Instr → Fields
  | .epSetRxStatus ep st => ⟨0x01, ep, st.code, 0, 0⟩
  | .epSetTxStatus ep st => ⟨0x02, ep, st.code, 0, 0⟩
  | .epSetType ep ty => ⟨0x03, ep, ty.code, 0, 0⟩
  | .rxComplete => ⟨0x10, 0, 0, 0, 0⟩
  | .rxAvailable => ⟨0x11, 0, 0, 0, 0⟩
  | .rxDrain n => ⟨0x12, 0, 0, 0, n⟩
  | .txSubmit n => ⟨0x20, 0, 0, 0, n⟩
  | .txComplete => ⟨0x21, 0, 0, 0, 0⟩
  | .txPending => ⟨0x22, 0, 0, 0, 0⟩
  | .ctrlSetLineState v => ⟨0x30, 0, 0, 0, v⟩
  | .dtrAsserted => ⟨0x31, 0, 0, 0, 0⟩
  | .rtsAsserted => ⟨0x32, 0, 0, 0, 0⟩
  | .resetStateRead => ⟨0x33, 0, 0, 0, 0⟩
  | .classRequest => ⟨0x40, 0, 0, 0, 0⟩
  | .enable => ⟨0x50, 0, 0, 0, 0⟩
  | .disable => ⟨0x51, 0, 0, 0, 0⟩
  | .hostOut ep n => ⟨0x80, ep, 0, 0, n⟩
  | .hostIn ep => ⟨0x81, ep, 0, 0, 0⟩
  | .hostSetup => ⟨0x82, 0, 0, 0, 0⟩
  | .intDispatch ep src => ⟨0x90, ep, src.code, 0, 0⟩

/-- The encoder: the word of a command. -/
def encode (i : Instr) : CmdWord := i.fields.toWord

/-- The mask of a command's row (30_encoding.md R105). -/
def Instr.rowMask : Instr → CmdWord
  | .epSetRxStatus _ _ | .epSetTxStatus _ _ | .epSetType _ _ | .intDispatch _ _ => 0xFF03FFFF
  | .rxDrain _ | .txSubmit _ | .ctrlSetLineState _ => 0xFFFF0000
  | .hostOut _ _ => 0xFF0F0000
  | .hostIn _ => 0xFF0FFFFF
  | .rxComplete | .rxAvailable | .txComplete | .txPending | .dtrAsserted | .rtsAsserted
  | .resetStateRead | .classRequest | .enable | .disable | .hostSetup => 0xFFFFFFFF

/-- The match value of a command's row: `OPC << 24` (30_encoding.md R105). -/
def Instr.rowMatch : Instr → CmdWord
  | .epSetRxStatus _ _ => 0x01000000
  | .epSetTxStatus _ _ => 0x02000000
  | .epSetType _ _ => 0x03000000
  | .rxComplete => 0x10000000
  | .rxAvailable => 0x11000000
  | .rxDrain _ => 0x12000000
  | .txSubmit _ => 0x20000000
  | .txComplete => 0x21000000
  | .txPending => 0x22000000
  | .ctrlSetLineState _ => 0x30000000
  | .dtrAsserted => 0x31000000
  | .rtsAsserted => 0x32000000
  | .resetStateRead => 0x33000000
  | .classRequest => 0x40000000
  | .enable => 0x50000000
  | .disable => 0x51000000
  | .hostOut _ _ => 0x80000000
  | .hostIn _ => 0x81000000
  | .hostSetup => 0x82000000
  | .intDispatch _ _ => 0x90000000

/-- The command the decoder reads from a word given as a number, bit 0 the least significant bit: every command is
one 32-bit word (30_encoding.md R118), so `nbits` fixes nothing more, and the data operand beside the word does
not change what it decodes to. -/
def decodeTableWord (_nbits w : Nat) : Option Instr :=
  match decode (BitVec.ofNat 32 w) with
  | .ok i => some i
  | .error _ => none

end Sys2Proof
end

