-- ==== Sys2Proof/Machine/State.lean ====
section
/-! DEFINITION. The state of the block as plain data: the elements of 10_state.md R30, the result ports of
00_scope.md R16, the stopped agents of 60_exceptions.md R234 and R235, and the model's own fields (the parameters,
the TASK program and the schedule), with the state after power-on reset. -/

namespace Sys2Proof.Machine

/-- The three agents (00_scope.md R8). The two software agents are also the contexts of 60_exceptions.md R245. -/
inductive Agent where
  | task
  | irq
  | wire
  deriving DecidableEq, Repr

/-- The ResetDetector's state (10_state.md R49). -/
inductive ResetState where
  | unset
  | high
  | negedge
  | low
  deriving DecidableEq, Repr

/-- The code RESET_STATE_READ returns (30_encoding.md R112). -/
def ResetState.code : ResetState → BitVec 2
  | .unset => 0b00
  | .high => 0b01
  | .negedge => 0b10
  | .low => 0b11

/-- The 8-byte SETUP packet by its fields (30_encoding.md R115). -/
structure SetupPacket where
  bmRequestType : Byte
  bRequest : Byte
  wValue : Half
  wIndex : Half
  wLength : Half
  deriving DecidableEq, Repr

/-- The buffer descriptor of an endpoint: five abstract fields (10_state.md R42; the packing of R43 is
informative). -/
structure Descriptor where
  txAddr : Half
  txCount : BitVec 10
  rxAddr : Half
  rxCapacity : Fin 1024
  rxCount : BitVec 10
  deriving DecidableEq, Repr

/-- What the host observes on the wire (10_state.md R53). -/
inductive WireRecord where
  | outAck (ep : EpNum) (bytes : List Byte)
  | outNak (ep : EpNum)
  | outStall (ep : EpNum)
  | outNone (ep : EpNum)
  | inData (ep : EpNum) (bytes : List Byte)
  | inNak (ep : EpNum)
  | inStall (ep : EpNum)
  | inNone (ep : EpNum)
  | setup (supported : Bool)
  deriving DecidableEq, Repr

/-- A fault code with the information recorded (60_exceptions.md R232, codes 5 to 7). -/
inductive FaultInfo where
  /-- RX_REENTRY: `rx_unread`, `rx_offset`. Raised by RX_COMPLETE. -/
  | rxReentry (unread offset : Nat)
  /-- RX_OVERSIZE: the length. Raised by RX_COMPLETE and by accesses to RxBuf beyond RX_CAP. -/
  | rxOversize (len : Nat)
  /-- PMA_RANGE: offset and length. Raised by accesses to PMA beyond PMA_SIZE. -/
  | pmaRange (offset len : Nat)
  deriving DecidableEq, Repr

/-- The code number of a fault (60_exceptions.md R232). -/
def FaultInfo.code : FaultInfo → Nat
  | .rxReentry _ _ => 5
  | .rxOversize _ => 6
  | .pmaRange _ _ => 7

/-- A refusal code with the information recorded (60_exceptions.md R232, codes 1 to 4 and 8). -/
inductive RefusalInfo where
  /-- ILLEGAL_COMMAND: the word. -/
  | illegalCommand (word : CmdWord)
  /-- EP_RANGE: the word. -/
  | epRange (word : CmdWord)
  /-- CONTEXT: the word, the context. -/
  | context (word : CmdWord) (who : Agent)
  /-- OPERAND_LENGTH: the word, the length. -/
  | operandLength (word : CmdWord) (len : Nat)
  /-- UNMODELLED: the word. -/
  | unmodelled (word : CmdWord)
  deriving DecidableEq, Repr

/-- The code number of a refusal (60_exceptions.md R232). -/
def RefusalInfo.code : RefusalInfo → Nat
  | .illegalCommand _ => 1
  | .epRange _ => 2
  | .context _ _ => 3
  | .operandLength _ _ => 4
  | .unmodelled _ => 8

/-- A command's result: the unit value, or a value in the encoding of 30_encoding.md R113 (a count as a natural, a
Bool as 1 or 0, a reset state by its code, SUPPORTED as 1 and UNSUPPORTED as 0). -/
inductive Result where
  | unit
  | value (n : Nat)
  deriving DecidableEq, Repr

/-- An agent's result port and data result (00_scope.md R16). `result` is `none` from a command's first line until
its `return`. -/
structure Port where
  result : Option Result
  data : List Byte
  deriving DecidableEq, Repr

/-- A port on which no command has returned. -/
def Port.empty : Port := ⟨none, []⟩

/-- A command as it stands on an agent's command interface: the word and the data operand (30_encoding.md R100,
R118). -/
structure Command where
  word : CmdWord
  data : List Byte
  deriving DecidableEq, Repr

/-- What TASK's program holds (00_scope.md R18): commands, and the pseudo-command PUTC (42_tx_channel.md R176). -/
inductive ProgItem where
  | cmd (c : Command)
  | putc (b : Byte)
  deriving DecidableEq, Repr

/-- A move that may fall between two numbered lines of TASK or of IRQ (00_scope.md R10, 70_reset_and_hazards.md
R260): a WIRE step or a RESET. -/
inductive Quiet where
  | wire (c : Command)
  | reset
  deriving DecidableEq, Repr

/-- A move that may fall between two numbered lines of TASK: a quiet one, or a whole IRQ command, whose own gaps
come with it (00_scope.md R10: IRQ runs to completion with respect to TASK; log 2, 3). -/
inductive Between where
  | quiet (q : Quiet)
  | irq (c : Command) (gaps : List (List Quiet))
  deriving DecidableEq, Repr

/-- One turn of the schedule (00_scope.md R10, 20_memory.md R81). The first list of a turn's gaps holds the moves
that fall between the first and the second numbered line the command runs, the second list those between its second
and its third, and so on; a missing list is an empty one (log 2). -/
inductive Turn where
  /-- The environment's event RESET (70_reset_and_hazards.md R260). -/
  | reset
  /-- The Engine's event CONFIGURE (70_reset_and_hazards.md R262). -/
  | configure
  /-- A WIRE step. -/
  | wire (c : Command)
  /-- A command of IRQ. -/
  | irq (c : Command) (gaps : List (List Quiet))
  /-- TASK's next command of its program. -/
  | task (gaps : List (List Between))
  deriving DecidableEq, Repr

/-- Packet memory and the RX buffer: the bytes written since RESET, by address, in one canonical form (strictly
rising addresses). An address that is not listed has not been written and reads as a draw (log 9, 10). -/
abbrev Memory := List Host.Cell

/-- The whole state. -/
@[ext]
structure State where
  -- The elements of 10_state.md R30
  epr : Vector Half 16
  bdt : Vector Descriptor 16
  pma : Memory
  rxBuf : Memory
  rxUnread : Nat
  rxOffset : Nat
  txPending : Nat
  resetState : ResetState
  ctlDtr : Bool
  ctlRts : Bool
  irqActive : Bool
  setupPending : Option SetupPacket
  wireLog : List WireRecord
  fault : Option FaultInfo
  refused : Bool
  -- The information a refusal records (60_exceptions.md R232) and the agents that have stopped (R234, R235)
  refusal : Option RefusalInfo
  taskStopped : Bool
  irqStopped : Bool
  wireStopped : Bool
  -- The result ports (00_scope.md R16)
  taskPort : Port
  irqPort : Port
  wirePort : Port
  -- The command on the interface: its agent and its data operand (log 21)
  issuer : Agent
  inData : List Byte
  -- The moves between the lines of the command in progress (log 2)
  taskGaps : List (List Between)
  irqGaps : List (List Quiet)
  -- The arguments of the model: parameters; TASK's program, which ends after its list or goes on for ever with a
  -- stream of free items (00_scope.md R18, log 27), and how far it is issued; schedule (log 1, 2, 17)
  params : Params
  program : List ProgItem
  programTail : Option Nat
  taskNext : Nat
  schedule : List Turn
  -- Nothing has run since RESET (log 16); the number of RESETs, for the draws (log 9)
  fresh : Bool
  resets : Nat
  deriving DecidableEq, Repr

/-- Why the machine stops: a turn of the schedule, or a move inside one, that is no step of the spec. Every one is
SAFE: nothing can be proved of what follows. The spec's own faults (RX_REENTRY, RX_OVERSIZE, PMA_RANGE) are NOT
among these: they are recorded in `State.fault` by a next state, as 60_exceptions.md R234 says (log 6). -/
inductive Fault where
  /-- A turn of an agent that a fault or refusal has stopped (60_exceptions.md R234, R235). Raised by
  `State.mayStep`. Safe. -/
  | agentStopped (who : Agent)
  /-- A turn of TASK or IRQ while `irq_active` is true, so while a handler has not ended (00_scope.md R10,
  60_exceptions.md R239). Raised by `State.mayStep`. Safe. -/
  | handlerRunning
  /-- A turn of TASK after the last command of a finite program (00_scope.md R18). Raised by the TASK turn. Safe. -/
  | programOver
  /-- INT_DISPATCH of a request that is not pending, or while a handler runs (60_exceptions.md R240 "Enabled
  when"). Raised by INT_DISPATCH. Safe. -/
  | dispatchNotEnabled (ep : EpNum) (src : DispatchSource)
  /-- HOST_OUT longer than the armed capacity (44_wire_events.md R211, R213: no move). Raised by HOST_OUT. Safe. -/
  | packetOverCapacity (ep : EpNum) (len : Nat)
  /-- HOST_SETUP while a SETUP packet is pending (44_wire_events.md R213, R216: no move). Raised by HOST_SETUP.
  Safe. -/
  | setupAlreadyPending
  /-- CONFIGURE when it has run already or another step has run since RESET (70_reset_and_hazards.md R262).
  Raised by the CONFIGURE turn. Safe. -/
  | configureTooLate
  deriving DecidableEq, Repr

/-- What the model gives no meaning. -/
inductive Refusal where
  /-- An instruction without a meaning: raised by a refused arm of `exec`. There is none. Safe. -/
  | notModelled (mnemonic : String)
  /-- CONFIGURE with parameters that break 00_scope.md R11 (20_memory.md R74: "refuses the configuration").
  Raised by the CONFIGURE turn. Safe. -/
  | illegalParameters
  deriving DecidableEq, Repr

/-- The descriptor of endpoint `ep` after the `n`-th RESET: five draws (10_state.md R59). -/
def Descriptor.drawn (n ep : Nat) : Descriptor where
  txAddr := Config.txAddrDraw n ep
  txCount := Config.txCountDraw n ep
  rxAddr := Config.rxAddrDraw n ep
  rxCapacity := Config.rxCapacityDraw n ep
  rxCount := Config.rxCountDraw n ep

/-- The state after power-on (10_state.md R59) for given parameters, with no program and no schedule. -/
def State.powerOn (p : Params) : State where
  epr := Vector.replicate 16 0x0000
  bdt := Vector.ofFn fun ep => Descriptor.drawn 0 ep.val
  pma := []
  rxBuf := []
  rxUnread := 0
  rxOffset := 0
  txPending := 0
  resetState := .unset
  ctlDtr := false
  ctlRts := false
  irqActive := false
  setupPending := none
  wireLog := []
  fault := none
  refused := false
  refusal := none
  taskStopped := false
  irqStopped := false
  wireStopped := false
  taskPort := Port.empty
  irqPort := Port.empty
  wirePort := Port.empty
  issuer := .task
  inData := []
  taskGaps := []
  irqGaps := []
  params := p
  program := []
  programTail := none
  taskNext := 0
  schedule := []
  fresh := true
  resets := 0

/-- The machine right after reset (10_state.md R59), with the standard parameters (log 1). -/
def State.reset : State := State.powerOn Params.standard

end Sys2Proof.Machine
end

