-- ==== Sys2Proof/Machine/Flags.lean ====
section
/-! DEFINITION. The endpoint register (10_state.md R33 to R41): its fields and flags, the masks, the hardware's write
rule, the words the commands write and the hardware's own updates. -/

namespace Sys2Proof.Machine

/-! The masks of 10_state.md R41. -/

def EPREG_MASK : Half := 0x8F8F
def EPRX_STAT : Half := 0x3000
def EPTX_STAT : Half := 0x0030
def EPRX_KEEP : Half := 0xBF8F
def EPTX_KEEP : Half := 0x8FBF
def EP_T_FIELD : Half := 0x0600
def EP_T_KEEP : Half := 0x898F
def CTR_NOOP : Half := 0x8080
def RW_FIELDS : Half := 0x070F

/-! The fields of a register value (10_state.md R33). -/

/-- `CTR_RX`, bit 15. -/
def ctrRx (r : Half) : Bool := r.getLsbD 15
/-- `DTOG_RX`, bit 14. -/
def dtogRx (r : Half) : Bool := r.getLsbD 14
/-- `STAT_RX`, bits 13:12. -/
def statRx (r : Half) : EpStatus := EpStatus.ofCode (r.extractLsb' 12 2)
/-- `SETUP`, bit 11. -/
def setupBit (r : Half) : Bool := r.getLsbD 11
/-- `EP_TYPE`, bits 10:9. -/
def epType (r : Half) : EpType := EpType.ofCode (r.extractLsb' 9 2)
/-- `EP_KIND`, bit 8. -/
def epKind (r : Half) : Bool := r.getLsbD 8
/-- `CTR_TX`, bit 7. -/
def ctrTx (r : Half) : Bool := r.getLsbD 7
/-- `DTOG_TX`, bit 6. -/
def dtogTx (r : Half) : Bool := r.getLsbD 6
/-- `STAT_TX`, bits 5:4. -/
def statTx (r : Half) : EpStatus := EpStatus.ofCode (r.extractLsb' 4 2)
/-- `EA`, bits 3:0. -/
def endpointAddress (r : Half) : BitVec 4 := r.extractLsb' 0 4

/-- The hardware write rule of a bus write of `w` to a register that holds `o` (10_state.md R38): the rc_w0 flags
are cleared by 0, the toggle fields are XORed, SETUP is kept, the read-write fields are stored. -/
def eprWritten (o w : Half) : Half :=
  ((o ^^^ w) &&& 0x7070) ||| (w &&& 0x070F) ||| (o &&& w &&& 0x8080) ||| (o &&& 0x0800)

/-! The words the commands write, from the value `r` they have read. -/

/-- EP_SET_RX_STATUS line 2 (40_flow_control.md R131). -/
def rxStatusWord (r : Half) (status : EpStatus) : Half :=
  ((r &&& EPRX_KEEP) ^^^ (status.code.setWidth 16 <<< 12)) ||| CTR_NOOP

/-- EP_SET_TX_STATUS line 2 (40_flow_control.md R132). -/
def txStatusWord (r : Half) (status : EpStatus) : Half :=
  ((r &&& EPTX_KEEP) ^^^ (status.code.setWidth 16 <<< 4)) ||| CTR_NOOP

/-- EP_SET_TYPE line 2 (40_flow_control.md R133). -/
def typeWord (r : Half) (type : EpType) : Half :=
  (r &&& EP_T_KEEP) ||| (type.code.setWidth 16 <<< 9) ||| CTR_NOOP

/-- INT_DISPATCH line 2 for the RX source: acknowledge CTR_RX (60_exceptions.md R240, R241). -/
def ackRxWord (r : Half) : Half := (r &&& RW_FIELDS) ||| 0x0080

/-- INT_DISPATCH line 2 for the TX source: acknowledge CTR_TX (60_exceptions.md R240, R241). -/
def ackTxWord (r : Half) : Half := (r &&& RW_FIELDS) ||| 0x8000

/-! The hardware's own updates, which are no bus writes (44_wire_events.md R211, R214). -/

/-- `STAT_RX` replaced. -/
def withStatRx (r : Half) (status : EpStatus) : Half :=
  (r &&& ~~~EPRX_STAT) ||| (status.code.setWidth 16 <<< 12)

/-- `STAT_TX` replaced. -/
def withStatTx (r : Half) (status : EpStatus) : Half :=
  (r &&& ~~~EPTX_STAT) ||| (status.code.setWidth 16 <<< 4)

/-- An accepted OUT packet (44_wire_events.md R211): DTOG_RX inverted, STAT_RX set to NAK if the hardware does so,
CTR_RX set. -/
def afterOutAccepted (autoNak : Bool) (r : Half) : Half :=
  let r := r ^^^ 0x4000
  let r := if autoNak then withStatRx r .nak else r
  r ||| 0x8000

/-- An IN packet sent and acknowledged (44_wire_events.md R214): DTOG_TX inverted, STAT_TX set to NAK, CTR_TX set. -/
def afterInSent (r : Half) : Half :=
  let r := r ^^^ 0x0040
  let r := withStatTx r .nak
  r ||| 0x0080

end Sys2Proof.Machine
end

