-- ==== Sys2Proof/Machine/Ops.lean ====
section
/-! DEFINITION. The named operations over the state: memory in canonical form, endpoint registers and descriptors,
the memory primitives of 00_scope.md R15, the items of TASK's program (R18), raising a fault and refusing a command
(60_exceptions.md R234, R235), the result ports, entry into and return from a handler (R240, R242), the events RESET and
CONFIGURE (70_reset_and_hazards.md R260, R262), and how the lines of a command follow one another. -/

namespace Sys2Proof.Machine

/-! ## Memory -/

/-- The byte written to address `a` since RESET, if one was. -/
def Memory.lookup : Memory → Nat → Option Byte
  | [], _ => none
  | (k, b) :: m, a => if k = a then some b else Memory.lookup m a

/-- Write one byte, keeping the addresses strictly rising. -/
def Memory.store : Memory → Nat → Byte → Memory
  | [], a, b => [(a, b)]
  | (k, c) :: m, a, b =>
    if a < k then (a, b) :: (k, c) :: m
    else if a = k then (a, b) :: m
    else (k, c) :: Memory.store m a b

/-- Write bytes at `a`, `a + 1`, ... in order. -/
def Memory.storeBytes : Memory → Nat → List Byte → Memory
  | m, _, [] => m
  | m, a, b :: bs => Memory.storeBytes (m.store a b) (a + 1) bs

/-- The canonical form: the addresses strictly rise (log 10). -/
abbrev Memory.wf (m : Memory) : Prop := (m.map Prod.fst).Pairwise (· < ·)

/-- Packet memory replaced. -/
def State.setPma (s : State) (m : Memory) : State := { s with pma := m }

/-- The RX buffer replaced. -/
def State.setRxBuf (s : State) (m : Memory) : State := { s with rxBuf := m }

/-- One byte of packet memory: what was written since RESET, else the draw of that RESET (10_state.md R59). -/
def State.pmaByte (s : State) (a : Nat) : Byte := (s.pma.lookup a).getD (Config.pmaDraw s.resets a)

/-- One byte of the RX buffer: what was written since RESET, else the draw of that RESET (10_state.md R59). -/
def State.rxBufByte (s : State) (a : Nat) : Byte :=
  (s.rxBuf.lookup a).getD (Config.rxBufDraw s.resets a)

/-- `MemRead(PMA, a, n)` (00_scope.md R15, 60_exceptions.md R233). -/
def State.readPma (s : State) (a n : Nat) : Except FaultInfo (List Byte) :=
  if a + n > s.params.pmaSize then .error (.pmaRange a n)
  else .ok ((List.range n).map fun k => s.pmaByte (a + k))

/-- `MemWrite(PMA, a, n, bytes)` with `n` the number of bytes (00_scope.md R15, 60_exceptions.md R233). -/
def State.writePma (s : State) (a : Nat) (bytes : List Byte) : Except FaultInfo State :=
  if a + bytes.length > s.params.pmaSize then .error (.pmaRange a bytes.length)
  else .ok (s.setPma (s.pma.storeBytes a bytes))

/-- `MemRead(RXBUF, a, n)` (00_scope.md R15, 60_exceptions.md R233). -/
def State.readRxBuf (s : State) (a n : Nat) : Except FaultInfo (List Byte) :=
  if a + n > s.params.rxCap then .error (.rxOversize n)
  else .ok ((List.range n).map fun k => s.rxBufByte (a + k))

/-- `MemWrite(RXBUF, a, n, bytes)` with `n` the number of bytes (00_scope.md R15, 60_exceptions.md R233). -/
def State.writeRxBuf (s : State) (a : Nat) (bytes : List Byte) : Except FaultInfo State :=
  if a + bytes.length > s.params.rxCap then .error (.rxOversize bytes.length)
  else .ok (s.setRxBuf (s.rxBuf.storeBytes a bytes))

/-! ## Endpoint registers and descriptors -/

/-- `EPR[ep]` read whole (00_scope.md R14, 20_memory.md R75). -/
def State.eprAt (s : State) (ep : EpNum) : Half := s.epr[ep.toNat]

/-- `EPR[ep]` replaced: the one place where an endpoint register changes. -/
def State.setEpr (s : State) (ep : EpNum) (v : Half) : State := { s with epr := s.epr.set ep.toNat v }

/-- `EPR_WRITE(ep, w)`: a bus write, by the write rule of 10_state.md R38. -/
def State.eprWrite (s : State) (ep : EpNum) (w : Half) : State :=
  s.setEpr ep (eprWritten (s.eprAt ep) w)

/-- `BDT[ep]` (10_state.md R42). -/
def State.bdtAt (s : State) (ep : EpNum) : Descriptor := s.bdt[ep.toNat]

/-- `BDT[ep]` replaced: the one place where a descriptor changes. -/
def State.setBdt (s : State) (ep : EpNum) (d : Descriptor) : State := { s with bdt := s.bdt.set ep.toNat d }

/-- `BDT[ep].tx_count <- n`. -/
def State.setTxCount (s : State) (ep : EpNum) (n : Nat) : State :=
  s.setBdt ep { s.bdtAt ep with txCount := BitVec.ofNat 10 n }

/-- `BDT[ep].rx_count <- n`. -/
def State.setRxCount (s : State) (ep : EpNum) (n : Nat) : State :=
  s.setBdt ep { s.bdtAt ep with rxCount := BitVec.ofNat 10 n }

/-- `BDT[ep].rx_capacity <- n`. -/
def State.setRxCapacity (s : State) (ep : EpNum) (n : Nat) : State :=
  s.setBdt ep { s.bdtAt ep with rxCapacity := Fin.ofNat 1024 n }

/-- `rx_unread <- n`. -/
def State.setRxUnread (s : State) (n : Nat) : State := { s with rxUnread := n }

/-- `rx_offset <- n`. -/
def State.setRxOffset (s : State) (n : Nat) : State := { s with rxOffset := n }

/-- `tx_pending <- n`. -/
def State.setTxPending (s : State) (n : Nat) : State := { s with txPending := n }

/-- `setup_pending <- p`. -/
def State.setSetupPending (s : State) (p : Option SetupPacket) : State := { s with setupPending := p }

/-- `wire_log += r` (10_state.md R53). -/
def State.log (s : State) (r : WireRecord) : State := { s with wireLog := s.wireLog ++ [r] }

/-! ## Agents, faults, refusals, ports -/

/-- Whether a fault or a refusal has stopped the agent (60_exceptions.md R234, R235). -/
def State.stopped (s : State) : Agent → Bool
  | .task => s.taskStopped
  | .irq => s.irqStopped
  | .wire => s.wireStopped

/-- The agent stops (60_exceptions.md R234, R235). -/
def State.stop (s : State) : Agent → State
  | .task => { s with taskStopped := true }
  | .irq => { s with irqStopped := true }
  | .wire => { s with wireStopped := true }

/-- `raise Fault(code)`: the first fault is recorded and the agent that raised it stops (10_state.md R52,
60_exceptions.md R234). -/
def State.raise (s : State) (who : Agent) (f : FaultInfo) : State :=
  { s with fault := s.fault.orElse fun _ => some f }.stop who

/-- `refuse(code)`: `refused` is set and the agent that issued the command stops (10_state.md R52,
60_exceptions.md R235). The first refusal's information is kept (log 12). -/
def State.refuse (s : State) (who : Agent) (r : RefusalInfo) : State :=
  { s with refused := true, refusal := s.refusal.orElse fun _ => some r }.stop who

/-- Why an agent cannot take a turn now: it has stopped, or it is a software agent and a handler has not ended
(00_scope.md R10, 60_exceptions.md R234, R235, R239). -/
def State.mayStep (s : State) (who : Agent) : Option Fault :=
  if s.stopped who then some (.agentStopped who)
  else match who with
    | .wire => none
    | .task | .irq => if s.irqActive then some .handlerRunning else none

/-- The result port of an agent (00_scope.md R16). -/
def State.port (s : State) : Agent → Port
  | .task => s.taskPort
  | .irq => s.irqPort
  | .wire => s.wirePort

/-- The result port of an agent replaced. -/
def State.setPort (s : State) (who : Agent) (p : Port) : State :=
  match who with
  | .task => { s with taskPort := p }
  | .irq => { s with irqPort := p }
  | .wire => { s with wirePort := p }

/-- The port of an agent that begins a command: no result, no data (log 11). -/
def State.clearPort (s : State) (who : Agent) : State := s.setPort who Port.empty

/-- `return v` (00_scope.md R16). -/
def State.ret (s : State) (who : Agent) (r : Result) : State :=
  s.setPort who { s.port who with result := some r }

/-- `out_data(bytes)` (00_scope.md R16). -/
def State.outData (s : State) (who : Agent) (bytes : List Byte) : State :=
  s.setPort who { s.port who with data := (s.port who).data ++ bytes }

/-! ## Handlers -/

/-- Whether the request a dispatch names is pending (60_exceptions.md R238). -/
def State.requestPending (s : State) (ep : EpNum) : DispatchSource → Bool
  | .rx => ctrRx (s.eprAt ep)
  | .tx => ctrTx (s.eprAt ep)
  | .setup => s.setupPending.isSome

/-- Entry into a handler: INT_DISPATCH line 1 (60_exceptions.md R240). Nothing is saved (R242). -/
def State.enterHandler (s : State) : State := { s with irqActive := true }

/-- Return from a handler: INT_DISPATCH line 6 (60_exceptions.md R240, R242). Nothing is restored. -/
def State.leaveHandler (s : State) : State := { s with irqActive := false }

/-! ## TASK's program -/

/-- Item `n` of stream `k`: what an infinite program holds where its list has ended (log 27). -/
def taskStreamItem (k n : Nat) : ProgItem :=
  match Config.taskPutc k n with
  | some b => .putc b
  | none => .cmd ⟨Config.taskWord k n, Config.taskData k n⟩

/-- Item `n` of TASK's program, a finite or infinite sequence (00_scope.md R18): of the list, then of the stream if the
program has one. -/
def State.item (s : State) (n : Nat) : Option ProgItem :=
  if n < s.program.length then s.program[n]?
  else s.programTail.map fun k => taskStreamItem k (n - s.program.length)

/-- What TASK issues next. -/
def State.nextItem (s : State) : Option ProgItem := s.item s.taskNext

/-! ## Events of the environment -/

/-- RESET (70_reset_and_hazards.md R260, 10_state.md R59): every element takes its reset value but `fault` and
`refused`; commands in progress are discarded and no agent stays stopped; TASK starts its program again; the
descriptors and memories hold new draws (log 8, 9). -/
def State.doReset (s : State) : State :=
  { State.powerOn s.params with
    bdt := Vector.ofFn fun ep => Descriptor.drawn (s.resets + 1) ep.val
    fault := s.fault
    refused := s.refused
    refusal := s.refusal
    program := s.program
    programTail := s.programTail
    schedule := s.schedule
    resets := s.resets + 1 }

/-- CONFIGURE (70_reset_and_hazards.md R262): the registers of endpoint 0 and of the three CDC endpoints, the two
buffer addresses and the receive capacity; nothing else changes. -/
def State.configure (s : State) : State :=
  let p := s.params
  let s := s.setEpr 0 0x3220
  let s := s.setEpr p.epOut (0x3000 ||| p.epOut.setWidth 16)
  let s := s.setEpr p.epIn (0x0020 ||| p.epIn.setWidth 16)
  let s := s.setEpr p.epNotify (0x0620 ||| p.epNotify.setWidth 16)
  let s := s.setBdt p.epOut { s.bdtAt p.epOut with
    rxAddr := p.pmaRxAddr, rxCapacity := Fin.ofNat 1024 p.maxPacket }
  let s := s.setBdt p.epIn { s.bdtAt p.epIn with txAddr := p.pmaTxAddr }
  { s with fresh := false }

/-! ## The lines of a command -/

/-- How a command stands after some of its lines: it goes on; or it has ended (by a fault of its own, or because
RESET or a handler that never ends cut it off); or a move between its lines was no step at all. -/
inductive Flow where
  | on (s : State)
  | off (s : State)
  | stuck (f : Fault)
  deriving DecidableEq, Repr

/-- The next lines, if the command goes on. -/
def Flow.andThen (x : Flow) (k : State → Flow) : Flow :=
  match x with
  | .on s => k s
  | .off s => .off s
  | .stuck f => .stuck f

/-- A line that can raise a fault: the command ends with the fault raised (00_scope.md R16). -/
def Flow.orRaise {α : Type} (who : Agent) (s : State) (x : Except FaultInfo α) (k : α → Flow) : Flow :=
  match x with
  | .ok a => k a
  | .error f => .off (s.raise who f)

/-- What falls between two numbered lines. -/
abbrev Gap := State → Flow

/-- The lines of a command, run by an agent, with what falls between them and the data operand `in_data`. -/
abbrev Body := Agent → Gap → List Byte → State → Flow

/-- The moves still to fall between the lines of the command in progress. -/
def State.setGaps (s : State) (taskGaps : List (List Between)) (irqGaps : List (List Quiet)) : State :=
  { s with taskGaps := taskGaps, irqGaps := irqGaps }

/-- The moves of a finished command are gone. -/
def State.dropGaps (s : State) : State := s.setGaps [] []

/-- The outcome of a command that has run its lines. -/
def Flow.outcome : Flow → Host.Outcome State Fault Refusal
  | .on s => .next s.dropGaps
  | .off s => .next s.dropGaps
  | .stuck f => .fault f

end Sys2Proof.Machine
end

