-- ==== Sys2Proof/Machine/Operands.lean ====
section
/-! DEFINITION. The operand forms of the commands: the SETUP packet as bytes (30_encoding.md R115), the contexts that
may issue a command (60_exceptions.md R245), and the admission of a command with its data operand (30_encoding.md R102,
R114, R117, R118). -/

namespace Sys2Proof.Machine

/-- The SETUP packet that eight bytes spell, little-endian in its 16-bit fields (30_encoding.md R115). Admission has
checked that there are eight. -/
def SetupPacket.ofBytes (d : List Byte) : SetupPacket where
  bmRequestType := d.getD 0 0
  bRequest := d.getD 1 0
  wValue := d.getD 3 0 ++ d.getD 2 0
  wIndex := d.getD 5 0 ++ d.getD 4 0
  wLength := d.getD 7 0 ++ d.getD 6 0

/-- The eight bytes of a SETUP packet (30_encoding.md R115). -/
def SetupPacket.bytes (p : SetupPacket) : List Byte :=
  [p.bmRequestType, p.bRequest, p.wValue.extractLsb' 0 8, p.wValue.extractLsb' 8 8,
    p.wIndex.extractLsb' 0 8, p.wIndex.extractLsb' 8 8,
    p.wLength.extractLsb' 0 8, p.wLength.extractLsb' 8 8]

/-- The type bits `bmRequestType[6:5]` (30_encoding.md R115). -/
def SetupPacket.typeBits (p : SetupPacket) : BitVec 2 := p.bmRequestType.extractLsb' 5 2

/-- The contexts that may issue a command (60_exceptions.md R245). -/
def Instr.allowedFrom (who : Agent) : Instr → Bool
  | .epSetRxStatus _ _ | .epSetTxStatus _ _ | .epSetType _ _ => who = .task ∨ who = .irq
  | .rxAvailable | .txPending | .dtrAsserted | .rtsAsserted | .resetStateRead => who = .task ∨ who = .irq
  | .rxDrain _ | .txSubmit _ | .enable | .disable => who = .task
  | .rxComplete | .txComplete | .ctrlSetLineState _ | .classRequest | .intDispatch _ _ => who = .irq
  | .hostOut _ _ | .hostIn _ | .hostSetup => who = .wire

/-- The commands without a meaning in the spec (60_exceptions.md R232 code 8): ENABLE and DISABLE (R236), a wire event
outside the modelled endpoints (44_wire_events.md R211, R214), and a standard SETUP packet on the wire (R216). -/
def Instr.unmodelled (p : Params) (data : List Byte) : Instr → Bool
  | .enable | .disable => true
  | .hostOut ep _ => ep ≠ p.epOut
  | .hostIn ep => ep ≠ p.epIn ∧ ep ≠ p.epNotify
  | .hostSetup => (SetupPacket.ofBytes data).typeBits = 0b00
  | .epSetRxStatus _ _ | .epSetTxStatus _ _ | .epSetType _ _ | .rxComplete | .rxAvailable
  | .rxDrain _ | .txSubmit _ | .txComplete | .txPending | .ctrlSetLineState _ | .dtrAsserted
  | .rtsAsserted | .resetStateRead | .classRequest | .intDispatch _ _ => false

/-- Why a command is refused, if it is (60_exceptions.md R232: codes 1 to 4 and 8, in that order, log 12). `data` is the
data operand that stands beside the word. -/
def admission (p : Params) (who : Agent) (data : List Byte) (i : Instr) : Option RefusalInfo :=
  if !i.sourceFits then some (.illegalCommand (encode i))
  else if !i.endpointExists p then some (.epRange (encode i))
  else if !Instr.allowedFrom who i then some (.context (encode i) who)
  else if data.length ≠ i.dataLength then some (.operandLength (encode i) data.length)
  else if Instr.unmodelled p data i then some (.unmodelled (encode i))
  else none

end Sys2Proof.Machine
end

