-- ==== Sys2Proof/Machine/ControlLineLines.lean ====
section
/-! DEFINITION. The numbered lines of the DTR-edge detector's commands and of the class-request classifier
(43_dtr_detector.md R190 to R202): each is one line. -/

namespace Sys2Proof.Machine

/-- The ResetDetector's next-state function `NEXT(state, dtr)`, the table of 43_dtr_detector.md R194. -/
def ResetState.next : ResetState → Bool → ResetState
  | .unset, true => .high
  | .unset, false => .low
  | .high, true => .high
  | .high, false => .negedge
  | .negedge, true => .high
  | .negedge, false => .low
  | .low, true => .high
  | .low, false => .low

/-- The line of CTRL_SET_LINE_STATE (43_dtr_detector.md R190): both flags and the detector at once. -/
def setLineState (value : Half) (s : State) : State :=
  { s with
    ctlDtr := value.getLsbD 0
    ctlRts := value.getLsbD 1
    resetState := s.resetState.next (value.getLsbD 0) }

/-- CTRL_SET_LINE_STATE (43_dtr_detector.md R190). -/
def ctrlSetLineStateBody (value : Half) : Body := fun who _ _ s =>
  .on ((setLineState value s).ret who .unit)

/-- A Bool as a result (30_encoding.md R113). -/
def Result.ofBool (b : Bool) : Result := .value (if b then 1 else 0)

/-- DTR_ASSERTED (43_dtr_detector.md R191). -/
def dtrAssertedBody : Body := fun who _ _ s => .on (s.ret who (Result.ofBool s.ctlDtr))

/-- RTS_ASSERTED (43_dtr_detector.md R192). -/
def rtsAssertedBody : Body := fun who _ _ s => .on (s.ret who (Result.ofBool s.ctlRts))

/-- RESET_STATE_READ (43_dtr_detector.md R193). -/
def resetStateReadBody : Body := fun who _ _ s =>
  .on (s.ret who (.value s.resetState.code.toNat))

/-- Whether a packet is a request of type class to an interface: `(bmRT & 0x7F) = 0x21`, the direction bit not
checked (43_dtr_detector.md R200). -/
def SetupPacket.classInterface (p : SetupPacket) : Bool := p.bmRequestType &&& 0x7F = 0x21

/-- Whether a request is SUPPORTED (43_dtr_detector.md R200, 30_encoding.md R116). -/
def SetupPacket.supported (p : SetupPacket) : Bool :=
  p.classInterface
    && (p.bRequest = 0x22 || p.bRequest = 0x20 || p.bRequest = 0x21 || p.bRequest = 0x02)

/-- The line of CLASS_REQUEST (43_dtr_detector.md R200): SET_CONTROL_LINE_STATE drives the line state and the
detector; no other request changes state. Its result is `SetupPacket.supported`. -/
def classRequestLine (p : SetupPacket) (s : State) : State :=
  if p.classInterface = true ∧ p.bRequest = 0x22 then setLineState p.wValue s else s

/-- CLASS_REQUEST (43_dtr_detector.md R200). -/
def classRequestBody : Body := fun who _ data s =>
  let p := SetupPacket.ofBytes data
  .on ((classRequestLine p s).ret who (Result.ofBool p.supported))

end Sys2Proof.Machine
end

