-- ==== Sys2Proof/Machine/FlowControlLines.lean ====
section
/-! DEFINITION. The numbered lines of the endpoint flow controller's commands (40_flow_control.md R130 to R137): a read
of the endpoint register, and in the next line a bus write computed from what was read. -/

namespace Sys2Proof.Machine

/-- Lines 1 and 2 of EP_SET_RX_STATUS (40_flow_control.md R131), also run in place by RX_COMPLETE and RX_DRAIN.
DESIGN CHOICE (log 29): the two lines meet the race of 70_reset_and_hazards.md R270 wherever a move between them changes the
status, also inside RX_COMPLETE and RX_DRAIN under CLEAN, where R270's derived last paragraph says that none does. Safe: the
write is R131's own. -/
def epSetRxStatusLines (ep : EpNum) (status : EpStatus) (gap : Gap) (s : State) : Flow :=
  let r := s.eprAt ep
  (gap s).andThen fun s => .on (s.eprWrite ep (rxStatusWord r status))

/-- Lines 1 and 2 of EP_SET_TX_STATUS (40_flow_control.md R132), also run in place by TX_SUBMIT.
DESIGN CHOICE (log 29): as EP_SET_RX_STATUS, inside TX_SUBMIT too. Safe. -/
def epSetTxStatusLines (ep : EpNum) (status : EpStatus) (gap : Gap) (s : State) : Flow :=
  let r := s.eprAt ep
  (gap s).andThen fun s => .on (s.eprWrite ep (txStatusWord r status))

/-- Lines 1 and 2 of EP_SET_TYPE (40_flow_control.md R133). -/
def epSetTypeLines (ep : EpNum) (type : EpType) (gap : Gap) (s : State) : Flow :=
  let r := s.eprAt ep
  (gap s).andThen fun s => .on (s.eprWrite ep (typeWord r type))

/-- EP_SET_RX_STATUS (40_flow_control.md R131). -/
def epSetRxStatusBody (ep : EpNum) (status : EpStatus) : Body := fun who gap _ s =>
  (epSetRxStatusLines ep status gap s).andThen fun s => .on (s.ret who .unit)

/-- EP_SET_TX_STATUS (40_flow_control.md R132). -/
def epSetTxStatusBody (ep : EpNum) (status : EpStatus) : Body := fun who gap _ s =>
  (epSetTxStatusLines ep status gap s).andThen fun s => .on (s.ret who .unit)

/-- EP_SET_TYPE (40_flow_control.md R133). -/
def epSetTypeBody (ep : EpNum) (type : EpType) : Body := fun who gap _ s =>
  (epSetTypeLines ep type gap s).andThen fun s => .on (s.ret who .unit)

end Sys2Proof.Machine
end

