-- ==== Sys2Proof/Machine/RxChannelLines.lean ====
section
/-! DEFINITION. The numbered lines of the receive channel's commands (41_rx_channel.md R150 to R155). -/

namespace Sys2Proof.Machine

/-- Lines 1 to 4 of RX_COMPLETE (41_rx_channel.md R150); INT_DISPATCH runs them as the callback of an RX request on
`EP_OUT`. Line 2 is EP_SET_RX_STATUS in place, lines 2a and 2b. The lines run as R150 writes them, for a raw RX_COMPLETE as for
a callback, also where R54, R153 or R270 derives otherwise under CLEAN (log 24, 29). -/
def rxCompleteLines (who : Agent) (gap : Gap) (s : State) : Flow :=
  if s.rxUnread ≠ 0 ∨ s.rxOffset ≠ 0 then .off (s.raise who (.rxReentry s.rxUnread s.rxOffset))
  else
    let len := (s.bdtAt s.params.epOut).rxCount.toNat
    (gap s).andThen fun s =>
    (epSetRxStatusLines s.params.epOut .nak gap s).andThen fun s =>
    (gap s).andThen fun s =>
    if len > s.params.rxCap then .off (s.raise who (.rxOversize len))
    else
      Flow.orRaise who s (s.readPma (s.bdtAt s.params.epOut).rxAddr.toNat len) fun bytes =>
      Flow.orRaise who s (s.writeRxBuf 0 bytes) fun s =>
      (gap s).andThen fun s => .on (s.setRxUnread len)

/-- RX_COMPLETE (41_rx_channel.md R150). -/
def rxCompleteBody : Body := fun who gap _ s =>
  (rxCompleteLines who gap s).andThen fun s => .on (s.ret who .unit)

/-- RX_AVAILABLE (41_rx_channel.md R151). -/
def rxAvailableBody : Body := fun who _ _ s => .on (s.ret who (.value s.rxUnread))

/-- Lines 5 to 7 of RX_DRAIN, the re-arm (41_rx_channel.md R152): offset, capacity, then VALID. It returns `n`. -/
def rearmLines (n : Nat) (who : Agent) (gap : Gap) (s : State) : Flow :=
  (gap (s.setRxOffset 0)).andThen fun s =>
  (gap (s.setRxCapacity s.params.epOut s.params.maxPacket)).andThen fun s =>
  (epSetRxStatusLines s.params.epOut .valid gap s).andThen fun s => .on (s.ret who (.value n))

/-- RX_DRAIN (41_rx_channel.md R152). Line 1 goes to line 5 as R152 writes it, also where a packet waits and R54 or R270
derives otherwise under CLEAN (log 24, 29). -/
def rxDrainBody (maxLen : Half) : Body := fun who gap _ s =>
  let u := s.rxUnread
  let n := min maxLen.toNat u
  if n = 0 then
    if s.params.drainEmptyRearms = true ∧ maxLen.toNat > 0 ∧ u = 0 then
      (gap s).andThen (rearmLines n who gap)
    else .on (s.ret who (.value 0))
  else
    (gap s).andThen fun s =>
    Flow.orRaise who s (s.readRxBuf s.rxOffset n) fun bytes =>
    (gap (s.outData who bytes)).andThen fun s =>
    (gap (s.setRxOffset (s.rxOffset + n))).andThen fun s =>
    let s := s.setRxUnread (s.rxUnread - n)
    if s.rxUnread ≠ 0 then .on (s.ret who (.value n))
    else (gap s).andThen (rearmLines n who gap)

end Sys2Proof.Machine
end

