-- ==== Sys2Proof/Machine/TxChannelLines.lean ====
section
/-! DEFINITION. The numbered lines of the transmit channel's commands (42_tx_channel.md R170 to R175). -/

namespace Sys2Proof.Machine

/-- TX_SUBMIT (42_tx_channel.md R170). Line 5 is EP_SET_TX_STATUS in place, lines 5a and 5b. -/
def txSubmitBody (len : Half) : Body := fun who gap data s =>
  let n := min len.toNat s.params.txClamp
  if s.txPending ≠ 0 ∨ n = 0 then .on (s.ret who (.value 0))
  else
    (gap s).andThen fun s =>
    Flow.orRaise who s (s.writePma (s.bdtAt s.params.epIn).txAddr.toNat (data.take n)) fun s =>
    (gap s).andThen fun s =>
    (gap (s.setTxCount s.params.epIn n)).andThen fun s =>
    (gap (s.setTxPending n)).andThen fun s =>
    (epSetTxStatusLines s.params.epIn .valid gap s).andThen fun s => .on (s.ret who (.value n))

/-- Line 1 of TX_COMPLETE (42_tx_channel.md R171); INT_DISPATCH runs it as the callback of a TX request on `EP_IN`. A
raw TX_COMPLETE runs it too, also where R54, R171 or R175 derives under CLEAN that none comes (log 24, 29). -/
def txCompleteLine (s : State) : State := s.setTxPending 0

/-- TX_COMPLETE (42_tx_channel.md R171). -/
def txCompleteBody : Body := fun who _ _ s => .on ((txCompleteLine s).ret who .unit)

/-- TX_PENDING (42_tx_channel.md R172). -/
def txPendingBody : Body := fun who _ _ s => .on (s.ret who (.value s.txPending))

end Sys2Proof.Machine
end

