-- ==== Sys2Proof/Machine/InterruptLines.lean ====
section
/-! DEFINITION. The numbered lines of INT_DISPATCH (60_exceptions.md R238 to R243), and ENABLE and DISABLE (R236). -/

namespace Sys2Proof.Machine

/-- Line 3 of INT_DISPATCH (60_exceptions.md R240): the callback slots. The OUT slot of `EP_OUT` holds RX_COMPLETE, the
IN slot of `EP_IN` holds TX_COMPLETE, every other slot is empty. -/
def callbackLines (ep : EpNum) (src : DispatchSource) (who : Agent) (gap : Gap) (s : State) : Flow :=
  match src with
  | .rx => if ep = s.params.epOut then rxCompleteLines who gap s else .on s
  | .tx => if ep = s.params.epIn then .on (txCompleteLine s) else .on s
  | .setup => .on s

/-- Line 5 of INT_DISPATCH (60_exceptions.md R240): the pending packet is taken, classified and recorded on the wire.
No line takes the packet away between lines 1 and 5 but RESET, which cuts the handler off. -/
def setupLine (s : State) : Flow :=
  match s.setupPending with
  | none => .stuck (.dispatchNotEnabled 0 .setup)
  | some p => .on ((classRequestLine p (s.setSetupPending none)).log (.setup p.supported))

/-- Lines 2 and 3 of INT_DISPATCH for the RX and TX sources, or line 5 for SETUP (60_exceptions.md R240); `r` is the
register as line 1 read it. -/
def handlerLines (ep : EpNum) (src : DispatchSource) (r : Half) (who : Agent) (gap : Gap) (s : State) : Flow :=
  match src with
  | .setup => setupLine s
  | .rx => (gap (s.eprWrite ep (ackRxWord r))).andThen (callbackLines ep .rx who gap)
  | .tx => (gap (s.eprWrite ep (ackTxWord r))).andThen (callbackLines ep .tx who gap)

/-- INT_DISPATCH (60_exceptions.md R240): enabled when no handler runs and the request is pending, else no move
(log 4). -/
def intDispatchBody (ep : EpNum) (src : DispatchSource) : Body := fun who gap _ s =>
  if s.irqActive = true ∨ s.requestPending ep src = false then .stuck (.dispatchNotEnabled ep src)
  else
    let r := s.eprAt ep
    (gap s.enterHandler).andThen fun s =>
    (handlerLines ep src r who gap s).andThen fun s =>
    (gap s).andThen fun s => .on (s.leaveHandler.ret who .unit)

/-- ENABLE (60_exceptions.md R236): refused with UNMODELLED. -/
def enableBody : Body := fun who _ _ s => .off (s.refuse who (.unmodelled (encode .enable)))

/-- DISABLE (60_exceptions.md R236): refused with UNMODELLED. -/
def disableBody : Body := fun who _ _ s => .off (s.refuse who (.unmodelled (encode .disable)))

end Sys2Proof.Machine
end

