-- ==== Sys2Proof/Machine/WireLines.lean ====
section
/-! DEFINITION. The steps of the WIRE agent (44_wire_events.md R210 to R217): each is one line. The refusals of R211,
R214 and R216 are in the admission (Machine/Operands.lean). -/

namespace Sys2Proof.Machine

/-- HOST_OUT (44_wire_events.md R211). With STAT_RX VALID and a packet longer than the capacity the step is not enabled
(R211, R213): no move (log 4). -/
def hostOutBody (ep : EpNum) (len : Half) : Body := fun who _ data s =>
  match statRx (s.eprAt ep) with
  | .disabled => .on ((s.log (.outNone ep)).ret who .unit)
  | .stall => .on ((s.log (.outStall ep)).ret who .unit)
  | .nak => .on ((s.log (.outNak ep)).ret who .unit)
  | .valid =>
    if len.toNat > (s.bdtAt ep).rxCapacity.val then .stuck (.packetOverCapacity ep len.toNat)
    else
      Flow.orRaise who s (s.writePma (s.bdtAt ep).rxAddr.toNat data) fun s =>
      let s := s.setRxCount ep len.toNat
      let s := s.setEpr ep (afterOutAccepted s.params.rxAutoNak (s.eprAt ep))
      .on ((s.log (.outAck ep data)).ret who .unit)

/-- HOST_IN (44_wire_events.md R214). -/
def hostInBody (ep : EpNum) : Body := fun who _ _ s =>
  match statTx (s.eprAt ep) with
  | .disabled => .on ((s.log (.inNone ep)).ret who .unit)
  | .stall => .on ((s.log (.inStall ep)).ret who .unit)
  | .nak => .on ((s.log (.inNak ep)).ret who .unit)
  | .valid =>
    Flow.orRaise who s (s.readPma (s.bdtAt ep).txAddr.toNat (s.bdtAt ep).txCount.toNat) fun data =>
    let s := s.setEpr ep (afterInSent (s.eprAt ep))
    .on ((s.log (.inData ep data)).ret who .unit)

/-- HOST_SETUP (44_wire_events.md R216). While a packet is pending the step is not enabled (R213): no move (log 4). -/
def hostSetupBody : Body := fun who _ data s =>
  if s.setupPending.isSome then .stuck .setupAlreadyPending
  else .on ((s.setSetupPending (some (SetupPacket.ofBytes data))).ret who .unit)

end Sys2Proof.Machine
end

