-- ==== Sys2Proof/Machine/Interleave.lean ====
section
/-! DEFINITION. What falls between the numbered lines of a command (00_scope.md R10, R17; 60_exceptions.md R243;
70_reset_and_hazards.md R270 to R272): WIRE steps and RESETs between any two lines, whole IRQ commands between two lines
of TASK. And how a command is issued. -/

namespace Sys2Proof.Machine

/-- The lines of each command. -/
def bodyOf : Instr → Body
  | .epSetRxStatus ep status => epSetRxStatusBody ep status
  | .epSetTxStatus ep status => epSetTxStatusBody ep status
  | .epSetType ep type => epSetTypeBody ep type
  | .rxComplete => rxCompleteBody
  | .rxAvailable => rxAvailableBody
  | .rxDrain maxLen => rxDrainBody maxLen
  | .txSubmit len => txSubmitBody len
  | .txComplete => txCompleteBody
  | .txPending => txPendingBody
  | .ctrlSetLineState value => ctrlSetLineStateBody value
  | .dtrAsserted => dtrAssertedBody
  | .rtsAsserted => rtsAssertedBody
  | .resetStateRead => resetStateReadBody
  | .classRequest => classRequestBody
  | .enable => enableBody
  | .disable => disableBody
  | .hostOut ep len => hostOutBody ep len
  | .hostIn ep => hostInBody ep
  | .hostSetup => hostSetupBody
  | .intDispatch ep src => intDispatchBody ep src

/-- A command run by an agent with its data operand: refused (30_encoding.md R117, 60_exceptions.md R235), or its
lines. -/
def runInstr (who : Agent) (gap : Gap) (data : List Byte) (i : Instr) (s : State) : Flow :=
  match admission s.params who data i with
  | some r => .off (s.refuse who r)
  | none => bodyOf i who gap data (s.clearPort who)

/-- A whole command of another agent that falls between two lines: no move if the agent cannot step now, refused if the
word spells no command. -/
def runCommand (who : Agent) (gap : Gap) (c : Command) (s : State) : Flow :=
  match s.mayStep who with
  | some f => .stuck f
  | none =>
    match decode c.word with
    | .error _ => .off (s.refuse who (.illegalCommand c.word))
    | .ok i => runInstr who gap c.data i s

/-- The command in progress goes on after another agent's command, however that ended. -/
def Flow.rejoin : Flow → Flow
  | .on s => .on s
  | .off s => .on s
  | .stuck f => .stuck f

/-- A WIRE step, or a RESET, which discards every command in progress (70_reset_and_hazards.md R260). -/
def quietMove (q : Quiet) (s : State) : Flow :=
  match q with
  | .wire c => (runCommand .wire .on c s).rejoin
  | .reset => .off s.doReset

/-- Quiet moves in order. -/
def quietMoves : List Quiet → State → Flow
  | [], s => .on s
  | q :: qs, s => (quietMove q s).andThen (quietMoves qs)

/-- What falls between two lines of IRQ. -/
def irqGap : Gap := fun s =>
  match s.irqGaps with
  | [] => .on s
  | g :: rest => quietMoves g (s.setGaps s.taskGaps rest)

/-- The command in progress stands where it is. -/
def Flow.halt : Flow → Flow
  | .on s => .off s
  | .off s => .off s
  | .stuck f => .stuck f

/-- What falls between two lines of IRQ, as far as a point between two of them: the command stands at the last gap for which
moves are listed, after those moves; with none listed, at its first gap. -/
def irqGapUpTo : Gap := fun s =>
  match s.irqGaps with
  | [] => .off s
  | [g] => (quietMoves g (s.setGaps s.taskGaps [])).halt
  | g :: rest => quietMoves g (s.setGaps s.taskGaps rest)

/-- A whole IRQ command between two lines of TASK. TASK goes on after it, unless a RESET has discarded TASK's command
(70_reset_and_hazards.md R260) or a fault has stopped IRQ inside a handler, which then never ends (00_scope.md R10,
60_exceptions.md R242; log 7). -/
def irqMove (c : Command) (gaps : List (List Quiet)) (s : State) : Flow :=
  match runCommand .irq irqGap c (s.setGaps s.taskGaps gaps) with
  | .stuck f => .stuck f
  | .on t | .off t =>
    if t.resets ≠ s.resets ∨ t.irqActive = true then .off (t.setGaps t.taskGaps [])
    else .on (t.setGaps t.taskGaps [])

/-- One move between two lines of TASK. -/
def betweenMove (b : Between) (s : State) : Flow :=
  match b with
  | .quiet q => quietMove q s
  | .irq c gaps => irqMove c gaps s

/-- Moves between two lines of TASK, in order. -/
def betweenMoves : List Between → State → Flow
  | [], s => .on s
  | b :: bs, s => (betweenMove b s).andThen (betweenMoves bs)

/-- What falls between two lines of TASK. -/
def taskGap : Gap := fun s =>
  match s.taskGaps with
  | [] => .on s
  | g :: rest => betweenMoves g (s.setGaps rest s.irqGaps)

/-- What falls between two lines of an agent's command. A WIRE step has one line. -/
def gapOf : Agent → Gap
  | .task => taskGap
  | .irq => irqGap
  | .wire => .on

/-- A command issued by `issuer` with the data operand `in_data`: refused, with none of its effects (60_exceptions.md
R235), or its lines are run. -/
def issue (i : Instr) (body : Body) (s : State) : Host.Outcome State Fault Refusal :=
  match admission s.params s.issuer s.inData i with
  | some r => .next (s.refuse s.issuer r).dropGaps
  | none => (body s.issuer (gapOf s.issuer) s.inData (s.clearPort s.issuer)).outcome

end Sys2Proof.Machine
end

