-- ==== Sys2Proof/Machine/ControlLine.lean ====
section
/-! DEFINITION. The meanings of CTRL_SET_LINE_STATE, DTR_ASSERTED, RTS_ASSERTED, RESET_STATE_READ and CLASS_REQUEST
(43_dtr_detector.md). -/

namespace Sys2Proof.Machine

/-- CTRL_SET_LINE_STATE (43_dtr_detector.md R190). -/
def execCtrlSetLineState (value : Half) (s : State) : Host.Outcome State Fault Refusal :=
  issue (.ctrlSetLineState value) (ctrlSetLineStateBody value) s

/-- DTR_ASSERTED (43_dtr_detector.md R191). -/
def execDtrAsserted (s : State) : Host.Outcome State Fault Refusal := issue .dtrAsserted dtrAssertedBody s

/-- RTS_ASSERTED (43_dtr_detector.md R192). -/
def execRtsAsserted (s : State) : Host.Outcome State Fault Refusal := issue .rtsAsserted rtsAssertedBody s

/-- RESET_STATE_READ (43_dtr_detector.md R193). -/
def execResetStateRead (s : State) : Host.Outcome State Fault Refusal :=
  issue .resetStateRead resetStateReadBody s

/-- CLASS_REQUEST (43_dtr_detector.md R200). -/
def execClassRequest (s : State) : Host.Outcome State Fault Refusal := issue .classRequest classRequestBody s

end Sys2Proof.Machine
end

