-- ==== Sys2Proof/Machine/FlowControl.lean ====
section
/-! DEFINITION. The meanings of EP_SET_RX_STATUS, EP_SET_TX_STATUS and EP_SET_TYPE (40_flow_control.md). -/

namespace Sys2Proof.Machine

/-- EP_SET_RX_STATUS (40_flow_control.md R131). -/
def execEpSetRxStatus (ep : EpNum) (status : EpStatus) (s : State) : Host.Outcome State Fault Refusal :=
  issue (.epSetRxStatus ep status) (epSetRxStatusBody ep status) s

/-- EP_SET_TX_STATUS (40_flow_control.md R132). -/
def execEpSetTxStatus (ep : EpNum) (status : EpStatus) (s : State) : Host.Outcome State Fault Refusal :=
  issue (.epSetTxStatus ep status) (epSetTxStatusBody ep status) s

/-- EP_SET_TYPE (40_flow_control.md R133). -/
def execEpSetType (ep : EpNum) (type : EpType) (s : State) : Host.Outcome State Fault Refusal :=
  issue (.epSetType ep type) (epSetTypeBody ep type) s

end Sys2Proof.Machine
end

