-- ==== Sys2Proof/Machine/Interrupts.lean ====
section
/-! DEFINITION. The meanings of INT_DISPATCH, ENABLE and DISABLE (60_exceptions.md). -/

namespace Sys2Proof.Machine

/-- INT_DISPATCH (60_exceptions.md R240). -/
def execIntDispatch (ep : EpNum) (src : DispatchSource) (s : State) : Host.Outcome State Fault Refusal :=
  issue (.intDispatch ep src) (intDispatchBody ep src) s

/-- ENABLE (60_exceptions.md R236). -/
def execEnable (s : State) : Host.Outcome State Fault Refusal := issue .enable enableBody s

/-- DISABLE (60_exceptions.md R236). -/
def execDisable (s : State) : Host.Outcome State Fault Refusal := issue .disable disableBody s

end Sys2Proof.Machine
end

