-- ==== Sys2Proof/Machine/RxChannel.lean ====
section
/-! DEFINITION. The meanings of RX_COMPLETE, RX_AVAILABLE and RX_DRAIN (41_rx_channel.md). -/

namespace Sys2Proof.Machine

/-- RX_COMPLETE (41_rx_channel.md R150). -/
def execRxComplete (s : State) : Host.Outcome State Fault Refusal := issue .rxComplete rxCompleteBody s

/-- RX_AVAILABLE (41_rx_channel.md R151). -/
def execRxAvailable (s : State) : Host.Outcome State Fault Refusal := issue .rxAvailable rxAvailableBody s

/-- RX_DRAIN (41_rx_channel.md R152). -/
def execRxDrain (maxLen : Half) (s : State) : Host.Outcome State Fault Refusal :=
  issue (.rxDrain maxLen) (rxDrainBody maxLen) s

end Sys2Proof.Machine
end

