-- ==== Sys2Proof/Machine/TxChannel.lean ====
section
/-! DEFINITION. The meanings of TX_SUBMIT, TX_COMPLETE and TX_PENDING (42_tx_channel.md). -/

namespace Sys2Proof.Machine

/-- TX_SUBMIT (42_tx_channel.md R170). -/
def execTxSubmit (len : Half) (s : State) : Host.Outcome State Fault Refusal :=
  issue (.txSubmit len) (txSubmitBody len) s

/-- TX_COMPLETE (42_tx_channel.md R171). -/
def execTxComplete (s : State) : Host.Outcome State Fault Refusal := issue .txComplete txCompleteBody s

/-- TX_PENDING (42_tx_channel.md R172). -/
def execTxPending (s : State) : Host.Outcome State Fault Refusal := issue .txPending txPendingBody s

end Sys2Proof.Machine
end

