-- ==== Sys2Proof/Machine/Wire.lean ====
section
/-! DEFINITION. The meanings of HOST_OUT, HOST_IN and HOST_SETUP (44_wire_events.md). -/

namespace Sys2Proof.Machine

/-- HOST_OUT (44_wire_events.md R211). -/
def execHostOut (ep : EpNum) (len : Half) (s : State) : Host.Outcome State Fault Refusal :=
  issue (.hostOut ep len) (hostOutBody ep len) s

/-- HOST_IN (44_wire_events.md R214). -/
def execHostIn (ep : EpNum) (s : State) : Host.Outcome State Fault Refusal :=
  issue (.hostIn ep) (hostInBody ep) s

/-- HOST_SETUP (44_wire_events.md R216). -/
def execHostSetup (s : State) : Host.Outcome State Fault Refusal := issue .hostSetup hostSetupBody s

end Sys2Proof.Machine
end

