-- ==== Sys2Proof/Machine/Dispatch.lean ====
section
/-! DEFINITION. One arm per command: its meaning. -/

namespace Sys2Proof.Machine

def exec (i : Instr) (s : State) : Host.Outcome State Fault Refusal :=
  match i with
  | .epSetRxStatus ep status => Sys2Proof.Machine.execEpSetRxStatus ep status s
  | .epSetTxStatus ep status => Sys2Proof.Machine.execEpSetTxStatus ep status s
  | .epSetType ep type => Sys2Proof.Machine.execEpSetType ep type s
  | .rxComplete => Sys2Proof.Machine.execRxComplete s
  | .rxAvailable => Sys2Proof.Machine.execRxAvailable s
  | .rxDrain maxLen => Sys2Proof.Machine.execRxDrain maxLen s
  | .txSubmit len => Sys2Proof.Machine.execTxSubmit len s
  | .txComplete => Sys2Proof.Machine.execTxComplete s
  | .txPending => Sys2Proof.Machine.execTxPending s
  | .ctrlSetLineState value => Sys2Proof.Machine.execCtrlSetLineState value s
  | .dtrAsserted => Sys2Proof.Machine.execDtrAsserted s
  | .rtsAsserted => Sys2Proof.Machine.execRtsAsserted s
  | .resetStateRead => Sys2Proof.Machine.execResetStateRead s
  | .classRequest => Sys2Proof.Machine.execClassRequest s
  | .enable => Sys2Proof.Machine.execEnable s
  | .disable => Sys2Proof.Machine.execDisable s
  | .hostOut ep len => Sys2Proof.Machine.execHostOut ep len s
  | .hostIn ep => Sys2Proof.Machine.execHostIn ep s
  | .hostSetup => Sys2Proof.Machine.execHostSetup s
  | .intDispatch ep src => Sys2Proof.Machine.execIntDispatch ep src s

end Sys2Proof.Machine
end

