-- ==== Sys2Proof/Machine/Turns.lean ====
section
/-! DEFINITION. The turns of the schedule (00_scope.md R10, 20_memory.md R81): the events RESET and CONFIGURE, and the
issuing of a command of each agent, PUTC among TASK's (42_tx_channel.md R176). And the placing of a command where the next
step takes it. -/

namespace Sys2Proof.Machine

/-- A command comes onto the interface: its agent, its data operand, and the moves that will fall between its lines. -/
def State.latch (s : State) (who : Agent) (data : List Byte) (taskGaps : List (List Between))
    (irqGaps : List (List Quiet)) : State :=
  { s with issuer := who, inData := data, taskGaps := taskGaps, irqGaps := irqGaps, fresh := false }

/-- TASK's next command is number `n` of its program. -/
def State.setTaskNext (s : State) (n : Nat) : State := { s with taskNext := n }

/-- A command word is issued: decoded and run, or refused with ILLEGAL_COMMAND (30_encoding.md R117). -/
def issueWord (who : Agent) (c : Command) (taskGaps : List (List Between)) (irqGaps : List (List Quiet))
    (s : State) : Host.Outcome State Fault Refusal :=
  match decode c.word with
  | .error _ =>
    .next ((s.latch who c.data taskGaps irqGaps).refuse who (.illegalCommand c.word)).dropGaps
  | .ok i => exec i (s.latch who c.data taskGaps irqGaps)

/-- The word of PUTC's TX_SUBMIT of one byte (42_tx_channel.md R176). -/
def putcWord : CmdWord := 0x20000001

/-- PUTC after one of its TX_SUBMITs (42_tx_channel.md R176): on 0 it loops, on an accepted byte it returns `()` and
TASK's next command comes. A TX_SUBMIT that a fault or a RESET has ended leaves no result. -/
def putcAfter (s : State) : State :=
  match s.taskPort.result with
  | some (.value 0) => s.setPort .task { s.taskPort with result := none }
  | some _ => (s.setTaskNext (s.taskNext + 1)).ret .task .unit
  | none => s

/-- TASK's turn (00_scope.md R18): its program's next command. No turn comes after the last one of a finite program. -/
def taskTurn (gaps : List (List Between)) (s : State) : Host.Outcome State Fault Refusal :=
  match s.nextItem with
  | none => .fault .programOver
  | some (.cmd c) => issueWord .task c gaps [] (s.setTaskNext (s.taskNext + 1))
  | some (.putc b) =>
    match issueWord .task ⟨putcWord, [b]⟩ gaps [] s with
    | .next t => .next (putcAfter t)
    | .fault f => .fault f
    | .refused r => .refused r

/-- CONFIGURE's turn (70_reset_and_hazards.md R262): once after each RESET, before any other step; refused for
parameters that break 00_scope.md R11 (20_memory.md R74). -/
def configureTurn (s : State) : Host.Outcome State Fault Refusal :=
  if s.fresh = false then .fault .configureTooLate
  else if s.params.Legal then .next s.configure
  else .refused .illegalParameters

/-- A turn of an agent, if it may step now (log 4). -/
def agentTurn (who : Agent) (s : State) (k : Host.Outcome State Fault Refusal) :
    Host.Outcome State Fault Refusal :=
  match s.mayStep who with
  | some f => .fault f
  | none => k

/-- One turn of the schedule. -/
def takeTurn (t : Turn) (s : State) : Host.Outcome State Fault Refusal :=
  match t with
  | .reset => .next s.doReset
  | .configure => configureTurn s
  | .wire c => agentTurn .wire s (issueWord .wire c [] [] s)
  | .irq c gaps => agentTurn .irq s (issueWord .irq c [] gaps s)
  | .task gaps => agentTurn .task s (taskTurn gaps s)

/-! ## Points inside a turn (log 28) -/

/-- The point that IRQ's command `c` has reached when the moves of `gaps` have fallen between its lines and no more: a point
between two of its lines, or where a fault, a refusal or a RESET has ended it. None if the command has run all its lines, or
if a move is no step. -/
def irqPoint (c : Command) (gaps : List (List Quiet)) (s : State) : Option State :=
  match runCommand .irq irqGapUpTo c (s.latch .irq c.data [] gaps) with
  | .off m => some m
  | .on _ | .stuck _ => none

/-- The point inside the schedule's next turn, if that is IRQ's: TASK is then between two commands, as 10_state.md R54 asks of
a quiescent point. Every point between two lines of the command is one, for the gaps that end there. -/
def State.irqTurnPoint (s : State) : Option State :=
  match s.schedule with
  | .irq c gaps :: rest => irqPoint c gaps { s with schedule := rest }
  | _ => none

/-! ## Placing a command (log 17) -/

/-- The agent that issues a word placed from outside: TASK where the context table lets it, else IRQ, else WIRE. -/
def placedAgent (w : CmdWord) : Agent :=
  match decode w with
  | .error _ => .task
  | .ok i =>
    if Instr.allowedFrom .task i then .task
    else if Instr.allowedFrom .irq i then .irq
    else .wire

/-- The data operand of a word placed from outside: zeros, as many as the word says (30_encoding.md R118). -/
def placedData (w : CmdWord) : List Byte :=
  match decode w with
  | .error _ => []
  | .ok i => List.replicate i.dataLength 0

/-- The request that a dispatch needs is made pending (60_exceptions.md R238): IRQ takes INT_DISPATCH only of a pending
request, so this is what placing an INT_DISPATCH takes. -/
def State.raiseRequest (s : State) (ep : EpNum) : DispatchSource → State
  | .rx => s.setEpr ep (s.eprAt ep ||| 0x8000)
  | .tx => s.setEpr ep (s.eprAt ep ||| 0x0080)
  | .setup =>
    match s.setupPending with
    | some _ => s
    | none => s.setSetupPending (some (SetupPacket.ofBytes (List.replicate 8 0)))

/-- What a placed word needs before the step that runs it. -/
def State.prepareFor (s : State) (w : CmdWord) : State :=
  match decode w with
  | .ok (.intDispatch ep src) => s.raiseRequest ep src
  | _ => s

/-- A command placed so that the next step runs it: the next turn is its agent's, and TASK's comes next in TASK's
program. Where the list has ended it is the list's last item, and the stream of an infinite program starts after it
(log 17). -/
def State.place (s : State) (who : Agent) (c : Command) : State :=
  match who with
  | .task =>
    { s with
      schedule := .task [] :: s.schedule
      program := s.program.take s.taskNext ++ .cmd c :: s.program.drop s.taskNext
      taskNext := (s.program.take s.taskNext).length }
  | .irq => { s with schedule := .irq c [] :: s.schedule }
  | .wire => { s with schedule := .wire c :: s.schedule }

end Sys2Proof.Machine
end

