-- ==== Sys2Proof/Machine/Step.lean ====
section
/-! DEFINITION. One step of the machine: the next turn of the schedule. And the placing of a command word for the host's
check of each opcode row. -/

namespace Sys2Proof.Machine

/-- One step: the first turn of the schedule is taken. With no turn left no agent steps and the state stays (log 5). -/
def step (s : State) : Host.Outcome State Fault Refusal :=
  match s.schedule with
  | [] => .next s
  | t :: rest => takeTurn t { s with schedule := rest }

/-- The word `w` placed where `step` takes its next command (log 17): in the agent's turn, with a data operand of zeros.
Every command is one 32-bit word (30_encoding.md R118), so `nbits` fixes nothing more. -/
def State.withFetchWord (s : State) (_nbits w : Nat) : State :=
  let word : CmdWord := BitVec.ofNat 32 w
  (s.prepareFor word).place (placedAgent word) ⟨word, placedData word⟩

end Sys2Proof.Machine
end

