-- ==== Sys2Proof/Safety.lean ====
section
/-! DEFINITION. The terms claims use: commands that run undisturbed, returned commands, what a frame leaves unchanged,
the invariants of 10_state.md R55 to R58 with what makes them inductive, the premise CLEAN of R54 with its runs, and the
premises that R54 does not ask (log 24). -/

namespace Sys2Proof.Machine

/-- No move falls between the lines of the command in progress. -/
abbrev State.Undisturbed (s : State) : Prop := s.taskGaps = [] ∧ s.irqGaps = []

/-- The command on the interface is not refused: it names an existing endpoint and a possible source, its context may
issue it, its data operand has the length the word says, and the spec gives it a meaning (60_exceptions.md R232). -/
abbrev State.Admits (s : State) (i : Instr) : Prop := admission s.params s.issuer s.inData i = none

/-- The command has returned `r` with the data result `data`: the issuer's port says so, and its moves are gone. -/
def State.returned (s : State) (r : Result) (data : List Byte) : State :=
  (s.setPort s.issuer ⟨some r, data⟩).dropGaps

/-- The command has ended by a fault: recorded unless an earlier one is, the issuer stopped, its port without a result
(10_state.md R52, 60_exceptions.md R234). -/
def State.faulted (s : State) (f : FaultInfo) : State :=
  ((s.clearPort s.issuer).raise s.issuer f).dropGaps

/-- The command is refused: `refused` is set, the issuer stopped (60_exceptions.md R235). -/
def State.refusedWith (s : State) (r : RefusalInfo) : State :=
  (s.refuse s.issuer r).dropGaps

/-! ## What a frame leaves unchanged -/

/-- Every byte of packet memory and of the RX buffer reads as before. -/
abbrev SameMemory (s t : State) : Prop :=
  (∀ a, t.pmaByte a = s.pmaByte a) ∧ ∀ a, t.rxBufByte a = s.rxBufByte a

/-- Every endpoint register but that of `ep` is unchanged. -/
abbrev SameRegistersBut (ep : EpNum) (s t : State) : Prop := ∀ e, e ≠ ep → t.eprAt e = s.eprAt e

/-- Every endpoint register is unchanged. -/
abbrev SameRegisters (s t : State) : Prop := ∀ e, t.eprAt e = s.eprAt e

/-- Every descriptor is unchanged. -/
abbrev SameDescriptors (s t : State) : Prop := ∀ e, t.bdtAt e = s.bdtAt e

/-- Every descriptor but that of `ep` is unchanged. -/
abbrev SameDescriptorsBut (ep : EpNum) (s t : State) : Prop := ∀ e, e ≠ ep → t.bdtAt e = s.bdtAt e

/-- The receive counters are unchanged. -/
abbrev SameRxCounters (s t : State) : Prop := t.rxUnread = s.rxUnread ∧ t.rxOffset = s.rxOffset

/-- The detector and the control lines are unchanged. -/
abbrev SameLines (s t : State) : Prop :=
  t.resetState = s.resetState ∧ t.ctlDtr = s.ctlDtr ∧ t.ctlRts = s.ctlRts

/-- The handler flag, the pending packet and the wire log are unchanged. -/
abbrev SameEvents (s t : State) : Prop :=
  t.irqActive = s.irqActive ∧ t.setupPending = s.setupPending ∧ t.wireLog = s.wireLog

/-- The marks of faults and refusals are unchanged. -/
abbrev SameMarks (s t : State) : Prop :=
  t.fault = s.fault ∧ t.refused = s.refused ∧ t.refusal = s.refusal ∧ ∀ who, t.stopped who = s.stopped who

/-- What is no state of the block is unchanged: the parameters, the program, the schedule, the interface. -/
abbrev SameArguments (s t : State) : Prop :=
  t.params = s.params ∧ t.program = s.program ∧ t.programTail = s.programTail ∧ t.taskNext = s.taskNext
  ∧ t.schedule = s.schedule ∧ t.issuer = s.issuer ∧ t.inData = s.inData ∧ t.fresh = s.fresh ∧ t.resets = s.resets

/-- The ports of the other agents are unchanged. -/
abbrev SameOtherPorts (s t : State) : Prop := ∀ who, who ≠ s.issuer → t.port who = s.port who

/-- The endpoint whose register a command may write, and no other (40_flow_control.md R131 to R133, 41_rx_channel.md
R150, R152, 42_tx_channel.md R170, 44_wire_events.md R211, R214, 60_exceptions.md R240). -/
def Instr.registerWritten (p : Params) : Instr → Option EpNum
  | .epSetRxStatus ep _ | .epSetTxStatus ep _ | .epSetType ep _ | .hostOut ep _ | .hostIn ep => some ep
  | .rxComplete | .rxDrain _ => some p.epOut
  | .txSubmit _ => some p.epIn
  | .intDispatch ep src => if src = .setup then none else some ep
  | .rxAvailable | .txComplete | .txPending | .ctrlSetLineState _ | .dtrAsserted | .rtsAsserted
  | .resetStateRead | .classRequest | .enable | .disable | .hostSetup => none

/-- The endpoint whose descriptor a command may write, and no other (20_memory.md R70). -/
def Instr.descriptorWritten (p : Params) : Instr → Option EpNum
  | .hostOut ep _ => some ep
  | .rxDrain _ => some p.epOut
  | .txSubmit _ => some p.epIn
  | .epSetRxStatus _ _ | .epSetTxStatus _ _ | .epSetType _ _ | .rxComplete | .rxAvailable | .txComplete
  | .txPending | .ctrlSetLineState _ | .dtrAsserted | .rtsAsserted | .resetStateRead | .classRequest
  | .enable | .disable | .hostIn _ | .hostSetup | .intDispatch _ _ => none

/-- Whether a byte of packet memory is one a command stores to: TX_SUBMIT in the transmit buffer, HOST_OUT in the receive
buffer of its endpoint (20_memory.md R70, R72). -/
def State.storesPma (s : State) (a : Nat) : Instr → Bool
  | .txSubmit len =>
    (s.bdtAt s.params.epIn).txAddr.toNat ≤ a
      ∧ a < (s.bdtAt s.params.epIn).txAddr.toNat + min len.toNat s.params.txClamp
  | .hostOut ep len =>
    (s.bdtAt ep).rxAddr.toNat ≤ a ∧ a < (s.bdtAt ep).rxAddr.toNat + len.toNat
  | .epSetRxStatus _ _ | .epSetTxStatus _ _ | .epSetType _ _ | .rxComplete | .rxAvailable | .rxDrain _
  | .txComplete | .txPending | .ctrlSetLineState _ | .dtrAsserted | .rtsAsserted | .resetStateRead
  | .classRequest | .enable | .disable | .hostIn _ | .hostSetup | .intDispatch _ _ => false

/-- Whether a command runs RX_COMPLETE's lines: RX_COMPLETE itself, and INT_DISPATCH of the RX source on `EP_OUT`
(60_exceptions.md R240). -/
def Instr.runsRxComplete (p : Params) : Instr → Bool
  | .rxComplete => true
  | .intDispatch ep .rx => ep = p.epOut
  | _ => false

/-- Whether a command runs TX_COMPLETE's line: TX_COMPLETE itself, and INT_DISPATCH of the TX source on `EP_IN`
(60_exceptions.md R240). -/
def Instr.runsTxComplete (p : Params) : Instr → Bool
  | .txComplete => true
  | .intDispatch ep .tx => ep = p.epIn
  | _ => false

/-- A turn in which neither IRQ nor RESET moves (43_dtr_detector.md R202). -/
def Turn.withoutIrqAndReset : Turn → Bool
  | .reset | .irq _ _ => false
  | .configure | .wire _ => true
  | .task gaps => gaps.all fun g => g.all fun b =>
    match b with
    | .quiet (.wire _) => true
    | .quiet .reset | .irq _ _ => false

/-! ## Invariants -/

/-- Both memories are in canonical form (log 10). -/
abbrev State.memoryWf (s : State) : Prop := s.pma.wf ∧ s.rxBuf.wf

/-- No endpoint register's SETUP bit is set (10_state.md R37: no rule of the block sets it). -/
abbrev State.setupBitsClear (s : State) : Prop := ∀ ep, setupBit (s.eprAt ep) = false

/-- A handler that has not ended between two turns is one whose agent a fault has stopped (00_scope.md R10,
60_exceptions.md R242). -/
abbrev State.handlerEnded (s : State) : Prop := s.irqActive = true → s.irqStopped = true

/-- `refused` is set exactly when a refusal's information is recorded (60_exceptions.md R232, R235). -/
abbrev State.refusalRecorded (s : State) : Prop := s.refused = s.refusal.isSome

/-- RX bounds (10_state.md R55). -/
abbrev State.RxBounds (s : State) : Prop :=
  s.rxOffset + s.rxUnread ≤ s.params.maxPacket ∧ (s.rxUnread = 0 → s.rxOffset = 0)

/-- RX handshake (10_state.md R56). -/
abbrev State.RxHandshake (s : State) : Prop :=
  s.rxUnread > 0 → statRx (s.eprAt s.params.epOut) = .nak

/-- The source's own bound, `rx_unread` and `rx_offset` within the RX buffer, and the offset of an empty buffer (10_state.md
R55). -/
abbrev State.RxWithinBuffer (s : State) : Prop :=
  s.rxOffset + s.rxUnread ≤ s.params.rxCap ∧ (s.rxUnread = 0 → s.rxOffset = 0)

/-- TX in flight (10_state.md R57). -/
abbrev State.TxInFlight (s : State) : Prop :=
  s.txPending > 0 ↔
    statTx (s.eprAt s.params.epIn) = .valid ∨ ctrTx (s.eprAt s.params.epIn) = true

/-- TX bound (10_state.md R58). -/
abbrev State.TxBound (s : State) : Prop := s.txPending ≤ s.params.txClamp

/-- No packet is longer than MAX_PACKET: an armed endpoint takes none longer, and none that waits is longer (what R55
rests on: 44_wire_events.md R211). -/
abbrev State.RxPacketFits (s : State) : Prop :=
  (statRx (s.eprAt s.params.epOut) = .valid →
    (s.bdtAt s.params.epOut).rxCapacity.val ≤ s.params.maxPacket)
  ∧ (ctrRx (s.eprAt s.params.epOut) = true →
    (s.bdtAt s.params.epOut).rxCount.toNat ≤ s.params.maxPacket)

/-- What R56 rests on: an armed endpoint is empty and has no packet waiting, and a waiting packet comes to an empty buffer
(41_rx_channel.md R153). -/
abbrev State.RxOnePacket (s : State) : Prop :=
  (statRx (s.eprAt s.params.epOut) = .valid →
    s.rxUnread = 0 ∧ ctrRx (s.eprAt s.params.epOut) = false)
  ∧ (ctrRx (s.eprAt s.params.epOut) = true → s.rxUnread = 0)

/-- A packet that is still to be sent and a packet whose completion is pending are not there at once
(42_tx_channel.md R173, R175). -/
abbrev State.TxOnePacket (s : State) : Prop :=
  ¬ (statTx (s.eprAt s.params.epIn) = .valid ∧ ctrTx (s.eprAt s.params.epIn) = true)

/-- Before CONFIGURE nothing is unread and nothing in flight (10_state.md R59, 70_reset_and_hazards.md R262). -/
abbrev State.FreshEmpty (s : State) : Prop := s.fresh = true → s.rxUnread = 0 ∧ s.txPending = 0

/-- The invariants of 10_state.md R55, R57 and R58, with what makes them inductive. -/
abbrev State.ChannelBounds (s : State) : Prop :=
  s.RxBounds ∧ s.RxPacketFits ∧ s.TxInFlight ∧ s.TxBound ∧ s.TxOnePacket ∧ s.FreshEmpty

/-- The invariants of 10_state.md R55 to R58, with what makes them inductive. -/
abbrev State.ChannelInv (s : State) : Prop :=
  s.ChannelBounds ∧ s.RxHandshake ∧ s.RxOnePacket

/-! ## CLEAN -/

/-- A command that CLEAN allows (10_state.md R54): none of the three status and type commands, on `EP_OUT` or `EP_IN`, issued
as a command of its own. Inside RX_COMPLETE, RX_DRAIN and TX_SUBMIT their lines are no command of the interface. -/
def Command.clean (p : Params) (c : Command) : Bool :=
  match decode c.word with
  | .error _ => true
  | .ok i =>
    match i with
    | .epSetRxStatus ep _ | .epSetTxStatus ep _ | .epSetType ep _ => ep ≠ p.epOut ∧ ep ≠ p.epIn
    | .rxComplete | .txComplete | .rxAvailable | .rxDrain _ | .txSubmit _ | .txPending | .ctrlSetLineState _
    | .dtrAsserted | .rtsAsserted | .resetStateRead | .classRequest | .enable | .disable | .hostOut _ _
    | .hostIn _ | .hostSetup | .intDispatch _ _ => true

/-- A command other than RX_COMPLETE and TX_COMPLETE, which then run only as callbacks of INT_DISPATCH (60_exceptions.md
R240). R54's CLEAN does not name this; 42_tx_channel.md R171 and R175 take it for granted under CLEAN, and R55 and R57 need it
(log 24). -/
def Command.noCallback (c : Command) : Bool :=
  match decode c.word with
  | .ok .rxComplete | .ok .txComplete => false
  | _ => true

/-- Every command of a turn meets `q`: IRQ's or TASK's own, and the IRQ commands between TASK's lines. WIRE issues none of
the commands in question, and PUTC runs TX_SUBMIT alone. -/
def State.turnAll (q : Command → Bool) (s : State) : Turn → Bool
  | .reset | .configure | .wire _ => true
  | .irq c _ => q c
  | .task gaps =>
    (match s.nextItem with
      | some (.cmd c) => q c
      | some (.putc _) | none => true)
    && gaps.all fun g => g.all fun b =>
      match b with
      | .quiet _ => true
      | .irq c _ => q c

/-- Every command of the schedule's next turn meets `q`. -/
abbrev State.NextTurnAll (q : Command → Bool) (s : State) : Prop :=
  ∀ tn ∈ s.schedule.head?, s.turnAll q tn = true

/-- The next turn is one that CLEAN allows (10_state.md R54). -/
abbrev State.NextTurnClean (s : State) : Prop := s.NextTurnAll (Command.clean s.params)

/-- The next turn runs callbacks by INT_DISPATCH alone. -/
abbrev State.NextTurnDispatches (s : State) : Prop := s.NextTurnAll Command.noCallback

/-- A turn with nothing between its lines. -/
def Turn.undisturbed : Turn → Bool
  | .reset | .configure | .wire _ => true
  | .irq _ gaps => gaps.all List.isEmpty
  | .task gaps => gaps.all List.isEmpty

/-- A turn with no IRQ command between TASK's lines. -/
def Turn.uninterrupted : Turn → Bool
  | .reset | .configure | .wire _ | .irq _ _ => true
  | .task gaps => gaps.all fun g => g.all fun b =>
    match b with
    | .quiet _ => true
    | .irq _ _ => false

/-- A turn in which RX_DRAIN does not re-arm an empty buffer (41_rx_channel.md R152 line 1, R155), or does so with no packet
waiting and nothing between its lines. Where DRAIN_EMPTY_REARMS is false every turn is one. No rule asks this; R56 needs it
(log 24). -/
def State.rearmsSafely (s : State) : Turn → Bool
  | .reset | .configure | .wire _ | .irq _ _ => true
  | .task gaps =>
    match s.nextItem with
    | some (.cmd c) =>
      match decode c.word with
      | .ok (.rxDrain _) =>
        s.params.drainEmptyRearms = false ∨ s.rxUnread ≠ 0
          ∨ (ctrRx (s.eprAt s.params.epOut) = false ∧ gaps.all List.isEmpty = true)
      | _ => true
    | some (.putc _) | none => true

/-- The next turn re-arms an empty buffer at most as `State.rearmsSafely` says. -/
abbrev State.NextTurnRearmsSafely (s : State) : Prop := ∀ tn ∈ s.schedule.head?, s.rearmsSafely tn = true

/-! ## Runs and quiescent points -/

/-- A run, as far as a state, of which every next turn meets `ok`: from the configured state of 70_reset_and_hazards.md R262,
after power-on or after a RESET of any state, with any program and any schedule. No step of it takes RESET, since R261
promises nothing from there to the next CONFIGURE, which starts a run of its own. -/
inductive ConfiguredRun (p : Params) (ok : State → Prop) : State → Prop where
  | powerOn (program : List ProgItem) (programTail : Option Nat) (schedule : List Turn) :
    ConfiguredRun p ok { (State.powerOn p).configure with
      program := program, programTail := programTail, schedule := schedule }
  | reset (u : State) (params : u.params = p) : ConfiguredRun p ok u.doReset.configure
  | step {s t : State} (run : ConfiguredRun p ok s) (allowed : ok s) (next : step s = .next t)
      (noReset : t.resets = s.resets) : ConfiguredRun p ok t

/-- A quiescent point of a run (10_state.md R54): TASK is between two commands and `irq_active` is false. Between two turns
TASK is between two commands; and so it is between two lines of a command that IRQ issues in a turn of its own, where
`irq_active` is false unless the command is INT_DISPATCH (log 28). -/
inductive QuiescentPoint (p : Params) (ok : State → Prop) : State → Prop where
  | betweenTurns {s : State} (run : ConfiguredRun p ok s) (idle : s.irqActive = false) : QuiescentPoint p ok s
  | insideTurn {s m : State} (run : ConfiguredRun p ok s) (allowed : ok s) (point : s.irqTurnPoint = some m)
      (noReset : m.resets = s.resets) (idle : m.irqActive = false) : QuiescentPoint p ok m

/-- The invariants of 10_state.md R55 to R58, as R54 promises them. -/
abbrev State.ChannelRules (s : State) : Prop :=
  s.RxBounds ∧ s.params.maxPacket ≤ s.params.rxCap ∧ s.RxHandshake ∧ s.TxInFlight ∧ s.TxBound

/-! ## Runs of commands -/

/-- TASK issues RX_DRAIN with each of the sizes in turn, nothing between; the data results joined, and the state after
(41_rx_channel.md R154). -/
def drains : List Half → State → Option (List Byte × State)
  | [], s => some ([], s)
  | k :: ks, s =>
    match exec (.rxDrain k) s with
    | .next t => (drains ks t).map fun r => (t.taskPort.data ++ r.1, r.2)
    | .fault _ => none
    | .refused _ => none

end Sys2Proof.Machine
end

