-- ==== Sys2Proof/Certificates/Slice0/Obligations.lean ====
section
/-! DEFINITION. The statements for the provers, one `def Obligations.<Name> : Prop` each. The spec's numbered rules
are cited as R<n>; a clause that rests on a choice of the model names its log entry. -/

open Sys2Proof Sys2Proof.Machine

/-! ## Encoding -/

/-- The spec's own words (95_test_vectors.md 2.2 to 2.11, 30_encoding.md R104) decode to the commands they spell. -/
def Obligations.DecodeReadsWrittenWords : Prop :=
  decode 0x011C0000 = .ok (.epSetRxStatus 1 .valid)
  ∧ decode 0x01380000 = .ok (.epSetRxStatus 3 .nak)
  ∧ decode 0x02180000 = .ok (.epSetTxStatus 1 .nak)
  ∧ decode 0x035C0000 = .ok (.epSetType 5 .interrupt)
  ∧ decode 0x12000004 = .ok (.rxDrain 4)
  ∧ decode 0x20000002 = .ok (.txSubmit 2)
  ∧ decode 0x30000001 = .ok (.ctrlSetLineState 1)
  ∧ decode 0x8030000A = .ok (.hostOut 3 10)
  ∧ decode 0x81100000 = .ok (.hostIn 1)
  ∧ decode 0x90140000 = .ok (.intDispatch 1 .tx)
  ∧ decode 0x90080000 = .ok (.intDispatch 0 .setup)
  ∧ decode 0x011D0000 = .error .reservedBits
  ∧ decode 0x04000000 = .error .unknownOpcode
  ∧ decode 0x900C0000 = .error .reservedSource
  ∧ decode 0x90380000 = .error .setupEndpoint

/-- Decoding an encoded command gives it back, every operand at every value (R100 to R104). The one premise is that a
SETUP dispatch names endpoint 0 (R114). -/
def Obligations.DecodeOfEncodeIsTheCommand : Prop :=
  ∀ i : Instr, i.sourceFits = true → decode (encode i) = .ok i

/-- A word that decodes is the word of the command it decodes to: no word has two spellings. -/
def Obligations.EncodeOfDecodeIsTheWord : Prop :=
  ∀ (w : CmdWord) (i : Instr), decode w = .ok i → encode i = w ∧ i.sourceFits = true

/-- The decoder is the opcode map as match and mask (R104, R105): what decodes to a row matches it, and a word that
matches a row decodes to that row, but for the dispatch words R117 refuses. -/
def Obligations.DecodeFollowsTheOpcodeRows : Prop :=
  (∀ (w : CmdWord) (i : Instr), decode w = .ok i → w &&& i.rowMask = i.rowMatch)
  ∧ ∀ w (i : Instr), w &&& i.rowMask = i.rowMatch →
      (∃ j, decode w = .ok j ∧ j.mnemonic = i.mnemonic)
      ∨ decode w = .error .reservedSource ∨ decode w = .error .setupEndpoint

/-- The words the decoder refuses are the ones R117 lists for ILLEGAL_COMMAND, field by field. -/
def Obligations.IllegalWordsAreThoseListed : Prop :=
  ∀ (w : CmdWord), (∃ e, decode w = .error e) ↔
    let f := Fields.ofWord w
    f.opc ∉ [0x01, 0x02, 0x03, 0x10, 0x11, 0x12, 0x20, 0x21, 0x22, 0x30, 0x31, 0x32, 0x33, 0x40,
        0x50, 0x51, 0x80, 0x81, 0x82, 0x90]
    ∨ f.res ≠ 0
    ∨ (f.opc ∈ [0x01, 0x02, 0x03, 0x90] ∧ f.imm ≠ 0)
    ∨ (f.opc ∈ [0x10, 0x11, 0x21, 0x22, 0x31, 0x32, 0x33, 0x40, 0x50, 0x51, 0x82]
        ∧ (f.ep ≠ 0 ∨ f.sel ≠ 0 ∨ f.imm ≠ 0))
    ∨ (f.opc ∈ [0x12, 0x20, 0x30] ∧ (f.ep ≠ 0 ∨ f.sel ≠ 0))
    ∨ (f.opc ∈ [0x80, 0x81] ∧ f.sel ≠ 0)
    ∨ (f.opc = 0x81 ∧ f.imm ≠ 0)
    ∨ (f.opc = 0x90 ∧ (f.sel = 0b11 ∨ (f.sel = 0b10 ∧ f.ep ≠ 0)))

/-! ## Steps -/

/-- A step runs the decoded command: for a turn of an agent that may step, `step` is `exec` of the decoded command, with the
command latched onto the interface (agent, data operand, moves; log 2, 21), and, for TASK, TASK's program advanced. A word
that does not decode is refused with ILLEGAL_COMMAND (R117, R235). -/
def Obligations.StepIssuesTheDecodedCommand : Prop :=
  (∀ (s : State) gaps rest c, s.schedule = .task gaps :: rest → s.taskStopped = false → s.irqActive = false →
    s.nextItem = some (.cmd c) →
    let u := ({ s with schedule := rest }.setTaskNext (s.taskNext + 1)).latch .task c.data gaps []
    (∀ (i : Instr), decode c.word = .ok i → step s = exec i u)
    ∧ ∀ e, decode c.word = .error e → step s = .next (u.refusedWith (.illegalCommand c.word)))
  ∧ (∀ (s : State) gaps rest c, s.schedule = .irq c gaps :: rest → s.irqStopped = false → s.irqActive = false →
    let u := { s with schedule := rest }.latch .irq c.data [] gaps
    (∀ (i : Instr), decode c.word = .ok i → step s = exec i u)
    ∧ ∀ e, decode c.word = .error e → step s = .next (u.refusedWith (.illegalCommand c.word)))
  ∧ (∀ (s : State) rest c, s.schedule = .wire c :: rest → s.wireStopped = false →
    let u := { s with schedule := rest }.latch .wire c.data [] []
    (∀ (i : Instr), decode c.word = .ok i → step s = exec i u)
    ∧ ∀ e, decode c.word = .error e → step s = .next (u.refusedWith (.illegalCommand c.word)))

/-- An agent that a fault or refusal has stopped takes no turn (R234, R235), neither software agent takes one while a
handler has not ended (R10, R239), and TASK takes none past the end of a finite program: the schedule that offers one is no
run (log 4). An infinite program has no end (R18, log 27). -/
def Obligations.StoppedAgentsTakeNoTurn : Prop :=
  (∀ (s : State) gaps rest, s.schedule = .task gaps :: rest →
    (s.taskStopped = true → step s = .fault (.agentStopped .task))
    ∧ (s.taskStopped = false → s.irqActive = true → step s = .fault .handlerRunning))
  ∧ (∀ (s : State) c gaps rest, s.schedule = .irq c gaps :: rest →
    (s.irqStopped = true → step s = .fault (.agentStopped .irq))
    ∧ (s.irqStopped = false → s.irqActive = true → step s = .fault .handlerRunning))
  ∧ (∀ (s : State) c rest, s.schedule = .wire c :: rest → s.wireStopped = true →
    step s = .fault (.agentStopped .wire))
  ∧ (∀ (s : State) gaps rest, s.schedule = .task gaps :: rest → s.taskStopped = false → s.irqActive = false →
    s.programTail = none → s.program.length ≤ s.taskNext → step s = .fault .programOver)
  ∧ (∀ (s : State) k, s.programTail = some k → ∃ x, s.nextItem = some x)

/-- PUTC (R176): while a packet is in flight TASK's turn changes nothing of the block and PUTC stays TASK's next command;
otherwise the byte is staged as a packet of one byte and PUTC returns `()`. -/
def Obligations.PutcSubmitsUntilAccepted : Prop :=
  ∀ (s : State) rest b, s.schedule = .task [] :: rest → s.taskStopped = false → s.irqActive = false →
    s.nextItem = some (.putc b) → s.params.Legal →
    (s.txPending ≠ 0 → ∃ t, step s = .next t
      ∧ t.taskNext = s.taskNext ∧ t.taskPort = ⟨none, []⟩ ∧ t.txPending = s.txPending
      ∧ SameRegisters s t ∧ SameDescriptors s t ∧ SameMemory s t ∧ SameRxCounters s t
      ∧ SameLines s t ∧ SameEvents s t ∧ SameMarks s t)
    ∧ (s.txPending = 0 → (s.bdtAt s.params.epIn).txAddr.toNat + 1 ≤ s.params.pmaSize →
      ∃ t, step s = .next t
      ∧ t.taskNext = s.taskNext + 1 ∧ t.taskPort = ⟨some .unit, []⟩ ∧ t.txPending = 1
      ∧ (t.bdtAt s.params.epIn).txCount = 1
      ∧ t.pmaByte (s.bdtAt s.params.epIn).txAddr.toNat = b
      ∧ statTx (t.eprAt s.params.epIn) = .valid)

/-! ## Refusals and faults -/

/-- A refused command, whichever it is, sets `refused`, records its code (the first refusal's is kept, log 12), stops its
agent, and performs none of its effects (R235). -/
def Obligations.RefusedCommandChangesOnlyTheMark : Prop :=
  ∀ (i : Instr) (s : State) r, admission s.params s.issuer s.inData i = some r →
    ∃ t, exec i s = .next t ∧ t.refused = true
      ∧ (s.refusal = none → t.refusal = some r) ∧ (∀ q, s.refusal = some q → t.refusal = some q)
      ∧ (∀ (who : Agent), t.stopped who = (s.stopped who || who = s.issuer))
      ∧ t.fault = s.fault ∧ t.txPending = s.txPending
      ∧ SameRegisters s t ∧ SameDescriptors s t ∧ SameMemory s t ∧ SameRxCounters s t
      ∧ SameLines s t ∧ SameEvents s t ∧ SameArguments s t ∧ ∀ (who : Agent), t.port who = s.port who

/-- The context table of R245, and the refusal CONTEXT of every other well-formed command. That CONTEXT is recorded also for
a command that fails a later check as well (its data operand's length, R118; UNMODELLED, R236) is the order of the checks, the
model's choice (log 12). -/
def Obligations.CommandsAreRefusedOutsideTheirContext : Prop :=
  (∀ (who : Agent) (ep : EpNum) st ty, ∀ i ∈ [Instr.epSetRxStatus ep st, .epSetTxStatus ep st, .epSetType ep ty],
      Instr.allowedFrom who i = true ↔ who ≠ .wire)
  ∧ (∀ (who : Agent), ∀ i ∈ [Instr.rxAvailable, .txPending, .dtrAsserted, .rtsAsserted, .resetStateRead],
      Instr.allowedFrom who i = true ↔ who ≠ .wire)
  ∧ (∀ (who : Agent) n, ∀ i ∈ [Instr.rxDrain n, .txSubmit n, .enable, .disable],
      Instr.allowedFrom who i = true ↔ who = .task)
  ∧ (∀ (who : Agent) v (ep : EpNum) src, ∀ i ∈ [Instr.rxComplete, .txComplete, .ctrlSetLineState v, .classRequest,
      .intDispatch ep src], Instr.allowedFrom who i = true ↔ who = .irq)
  ∧ (∀ (who : Agent) (ep : EpNum) n, ∀ i ∈ [Instr.hostOut ep n, .hostIn ep, .hostSetup],
      Instr.allowedFrom who i = true ↔ who = .wire)
  ∧ ∀ (i : Instr) (s : State), i.WellFormed s.params → Instr.allowedFrom s.issuer i = false →
      exec i s = .next (s.refusedWith (.context (encode i) s.issuer))

/-- A command that names an absent endpoint is refused with EP_RANGE (R102), one with a data operand of another length than
its word says with OPERAND_LENGTH (R118), and a wire event outside the modelled endpoints, or a standard SETUP packet, with
UNMODELLED (R211, R214, R216). Which of several failed checks is recorded is the order of the checks, the model's choice
(log 12): EP_RANGE here whatever the context and the data, OPERAND_LENGTH whatever UNMODELLED would say. -/
def Obligations.OperandsAreChecked : Prop :=
  (∀ (i : Instr) (s : State) (ep : EpNum), i.endpoint = some ep → i.sourceFits = true → s.params.numEp ≤ ep.toNat →
    exec i s = .next (s.refusedWith (.epRange (encode i))))
  ∧ (∀ (i : Instr) (s : State), i.WellFormed s.params → Instr.allowedFrom s.issuer i = true → s.inData.length ≠ i.dataLength →
    exec i s = .next (s.refusedWith (.operandLength (encode i) s.inData.length)))
  ∧ (∀ (s : State) (ep : EpNum) len, ep.toNat < s.params.numEp → s.issuer = .wire → s.inData.length = len.toNat →
    ep ≠ s.params.epOut →
    exec (.hostOut ep len) s = .next (s.refusedWith (.unmodelled (encode (.hostOut ep len)))))
  ∧ (∀ (s : State) (ep : EpNum), ep.toNat < s.params.numEp → s.issuer = .wire → s.inData = [] →
    ep ≠ s.params.epIn → ep ≠ s.params.epNotify →
    exec (.hostIn ep) s = .next (s.refusedWith (.unmodelled (encode (.hostIn ep)))))
  ∧ ∀ (s : State), s.issuer = .wire → s.inData.length = 8 → (s.inData.getD 0 0).extractLsb' 5 2 = 0b00 →
    exec .hostSetup s = .next (s.refusedWith (.unmodelled 0x82000000))

/-- ENABLE and DISABLE are refused with UNMODELLED (R236). -/
def Obligations.EnableAndDisableAreRefused : Prop :=
  encode .enable = 0x50000000 ∧ encode .disable = 0x51000000
  ∧ ∀ (s : State), s.issuer = .task → s.inData = [] →
    exec .enable s = .next (s.refusedWith (.unmodelled 0x50000000))
    ∧ exec .disable s = .next (s.refusedWith (.unmodelled 0x51000000))

/-- R52: `fault` records the first fault raised, `refused` is set by any refusal, and no step clears or replaces either,
RESET and whatever falls between the lines of commands included. -/
def Obligations.FaultAndRefusedAreNeverCleared : Prop :=
  (∀ (s : State) (who : Agent) f, s.fault = none → (s.raise who f).fault = some f)
  ∧ (∀ (s : State) (who : Agent) r, (s.refuse who r).refused = true)
  ∧ ∀ (s t : State), step s = .next t →
    (∀ f, s.fault = some f → t.fault = some f) ∧ (s.refused = true → t.refused = true)

/-! ## Endpoint registers -/

/-- R38: a bus write changes the named register alone, each field by its access kind, and R38's one expression for it. -/
def Obligations.BusWriteFollowsAccessKinds : Prop :=
  ∀ (s : State) (ep : EpNum) (w : Half),
    let o := s.eprAt ep
    let n := (s.eprWrite ep w).eprAt ep
    s.eprWrite ep w = s.setEpr ep n
    ∧ n = ((o ^^^ w) &&& 0x7070) ||| (w &&& 0x070F) ||| (o &&& w &&& 0x8080) ||| (o &&& 0x0800)
    ∧ n.getLsbD 15 = (o.getLsbD 15 && w.getLsbD 15)
    ∧ n.extractLsb' 12 3 = o.extractLsb' 12 3 ^^^ w.extractLsb' 12 3
    ∧ n.getLsbD 11 = o.getLsbD 11
    ∧ n.extractLsb' 8 3 = w.extractLsb' 8 3
    ∧ n.getLsbD 7 = (o.getLsbD 7 && w.getLsbD 7)
    ∧ n.extractLsb' 4 3 = o.extractLsb' 4 3 ^^^ w.extractLsb' 4 3
    ∧ n.extractLsb' 0 4 = w.extractLsb' 0 4
    ∧ ∀ (e : EpNum), e ≠ ep → (s.eprWrite ep w).eprAt e = s.eprAt e

/-- EP_SET_RX_STATUS with any moves between its two lines (R131, R135, R270): `r` is what line 1 read, `o` what line 2
found. The status is the target unless the field changed in between, and then the XOR of the three; the flags, the
toggles, the other status and SETUP are as line 2 found them; the read-write fields are as line 1 read them. -/
def Obligations.EpSetRxStatusUnderInterference : Prop :=
  ∀ (s m : State) (ep : EpNum) st, s.Admits (.epSetRxStatus ep st) → gapOf s.issuer (s.clearPort s.issuer) = .on m →
    let r := s.eprAt ep
    let o := m.eprAt ep
    ∃ n, exec (.epSetRxStatus ep st) s = .next (((m.setEpr ep n).ret s.issuer .unit).dropGaps)
      ∧ (statRx n).code = (statRx r).code ^^^ (statRx o).code ^^^ st.code
      ∧ (statRx o = statRx r → statRx n = st)
      ∧ ctrRx n = ctrRx o ∧ ctrTx n = ctrTx o ∧ dtogRx n = dtogRx o ∧ dtogTx n = dtogTx o
      ∧ statTx n = statTx o ∧ setupBit n = setupBit o
      ∧ epType n = epType r ∧ epKind n = epKind r ∧ endpointAddress n = endpointAddress r

/-- EP_SET_TX_STATUS with any moves between its two lines (R132, R135, R270), as for EP_SET_RX_STATUS. -/
def Obligations.EpSetTxStatusUnderInterference : Prop :=
  ∀ (s m : State) (ep : EpNum) st, s.Admits (.epSetTxStatus ep st) → gapOf s.issuer (s.clearPort s.issuer) = .on m →
    let r := s.eprAt ep
    let o := m.eprAt ep
    ∃ n, exec (.epSetTxStatus ep st) s = .next (((m.setEpr ep n).ret s.issuer .unit).dropGaps)
      ∧ (statTx n).code = (statTx r).code ^^^ (statTx o).code ^^^ st.code
      ∧ (statTx o = statTx r → statTx n = st)
      ∧ ctrRx n = ctrRx o ∧ ctrTx n = ctrTx o ∧ dtogRx n = dtogRx o ∧ dtogTx n = dtogTx o
      ∧ statRx n = statRx o ∧ setupBit n = setupBit o
      ∧ epType n = epType r ∧ epKind n = epKind r ∧ endpointAddress n = endpointAddress r

/-- EP_SET_TYPE with any moves between its two lines (R133, R135): the type is the target; EP_KIND and EA are as line 1 read
them; everything else in the register is as line 2 found it. -/
def Obligations.EpSetTypeUnderInterference : Prop :=
  ∀ (s m : State) (ep : EpNum) ty, s.Admits (.epSetType ep ty) → gapOf s.issuer (s.clearPort s.issuer) = .on m →
    let r := s.eprAt ep
    let o := m.eprAt ep
    ∃ n, exec (.epSetType ep ty) s = .next (((m.setEpr ep n).ret s.issuer .unit).dropGaps)
      ∧ epType n = ty ∧ epKind n = epKind r ∧ endpointAddress n = endpointAddress r
      ∧ ctrRx n = ctrRx o ∧ ctrTx n = ctrTx o ∧ dtogRx n = dtogRx o ∧ dtogTx n = dtogTx o
      ∧ statRx n = statRx o ∧ statTx n = statTx o ∧ setupBit n = setupBit o

/-- The three commands run undisturbed (R131 to R134): the named field of the named register is replaced and nothing else
of the block changes. They complete for every selector and every existing endpoint, from TASK and from IRQ. -/
def Obligations.FlowControlCommandsComplete : Prop :=
  ∀ (s : State) (ep : EpNum), ep.toNat < s.params.numEp → s.issuer ≠ .wire → s.inData = [] → s.Undisturbed →
    (∀ st, exec (.epSetRxStatus ep st) s = .next
      ((s.setEpr ep ((s.eprAt ep &&& 0xCFFF) ||| (st.code.setWidth 16 <<< 12))).returned .unit []))
    ∧ (∀ st, exec (.epSetTxStatus ep st) s = .next
      ((s.setEpr ep ((s.eprAt ep &&& 0xFFCF) ||| (st.code.setWidth 16 <<< 4))).returned .unit []))
    ∧ ∀ ty, exec (.epSetType ep ty) s = .next
      ((s.setEpr ep ((s.eprAt ep &&& 0xF9FF) ||| (ty.code.setWidth 16 <<< 9))).returned .unit [])

/-- R137: issuing one of the three commands twice, with nothing intervening, leaves what issuing it once leaves. -/
def Obligations.StatusCommandsAreIdempotent : Prop :=
  ∀ (s t u : State) (ep : EpNum) st ty, s.Undisturbed →
    ∀ i ∈ [Instr.epSetRxStatus ep st, .epSetTxStatus ep st, .epSetType ep ty],
      exec i s = .next t → exec i t = .next u → u = t

/-! ## Frames -/

/-- What each command leaves unchanged when nothing falls between its lines: registers and descriptors but the one of the
endpoint it writes; every byte of packet memory but those it stores to; every byte of the RX buffer but the packet
RX_COMPLETE copies; the counters, the lines, the events and the marks unless the command is one whose rule names them; the
other agents' ports and the arguments always. -/
def Obligations.EveryCommandKeepsItsFrame : Prop :=
  ∀ (i : Instr) (s t : State), s.Undisturbed → s.Admits i → exec i s = .next t →
    (∀ (e : EpNum), Instr.registerWritten s.params i ≠ some e → t.eprAt e = s.eprAt e)
    ∧ (∀ (e : EpNum), Instr.descriptorWritten s.params i ≠ some e → t.bdtAt e = s.bdtAt e)
    ∧ (∀ a, s.storesPma a i = false → t.pmaByte a = s.pmaByte a)
    ∧ (∀ a, (Instr.runsRxComplete s.params i = true → (s.bdtAt s.params.epOut).rxCount.toNat ≤ a) →
        t.rxBufByte a = s.rxBufByte a)
    ∧ (Instr.runsRxComplete s.params i = false → (∀ n, i ≠ .rxDrain n) → t.rxUnread = s.rxUnread)
    ∧ ((∀ n, i ≠ .rxDrain n) → t.rxOffset = s.rxOffset)
    ∧ (Instr.runsTxComplete s.params i = false → (∀ n, i ≠ .txSubmit n) → t.txPending = s.txPending)
    ∧ ((∀ v, i ≠ .ctrlSetLineState v) → i ≠ .classRequest → (∀ (ep : EpNum), i ≠ .intDispatch ep .setup) →
        SameLines s t)
    ∧ ((∀ (ep : EpNum) src, i ≠ .intDispatch ep src) → t.irqActive = s.irqActive)
    ∧ (i ≠ .hostSetup → (∀ (ep : EpNum), i ≠ .intDispatch ep .setup) → t.setupPending = s.setupPending)
    ∧ ((∀ (ep : EpNum) n, i ≠ .hostOut ep n) → (∀ (ep : EpNum), i ≠ .hostIn ep) → (∀ (ep : EpNum), i ≠ .intDispatch ep .setup) →
        t.wireLog = s.wireLog)
    ∧ (Instr.runsRxComplete s.params i = false → (∀ n, i ≠ .rxDrain n) → (∀ n, i ≠ .txSubmit n) →
        (∀ (ep : EpNum) n, i ≠ .hostOut ep n) → (∀ (ep : EpNum), i ≠ .hostIn ep) → SameMarks s t)
    ∧ t.refused = s.refused ∧ t.refusal = s.refusal
    ∧ SameOtherPorts s t ∧ SameArguments s t

/-! ## Reads -/

/-- RX_AVAILABLE, TX_PENDING, DTR_ASSERTED, RTS_ASSERTED and RESET_STATE_READ return what they read, from TASK and from
IRQ, and change nothing but the issuer's result port (R151, R172, R191 to R193, R113). -/
def Obligations.ReadCommandsReturnWhatTheyRead : Prop :=
  ∀ (s : State), s.issuer ≠ .wire → s.inData = [] →
    exec .rxAvailable s = .next (s.returned (.value s.rxUnread) [])
    ∧ exec .txPending s = .next (s.returned (.value s.txPending) [])
    ∧ exec .dtrAsserted s = .next (s.returned (.value (if s.ctlDtr then 1 else 0)) [])
    ∧ exec .rtsAsserted s = .next (s.returned (.value (if s.ctlRts then 1 else 0)) [])
    ∧ exec .resetStateRead s = .next (s.returned (.value
        (match s.resetState with | .unset => 0 | .high => 1 | .negedge => 2 | .low => 3)) [])

/-! ## Receive channel -/

/-- RX_COMPLETE on an empty buffer (R150): the packet's bytes are copied to the start of the RX buffer, STAT_RX of `EP_OUT`
becomes NAK, the length is published; nothing else changes. -/
def Obligations.RxCompletePublishesThePacket : Prop :=
  ∀ (s : State), s.issuer = .irq → s.inData = [] → s.Undisturbed → s.rxUnread = 0 → s.rxOffset = 0 →
    let ep := s.params.epOut
    let len := (s.bdtAt ep).rxCount.toNat
    let addr := (s.bdtAt ep).rxAddr.toNat
    len ≤ s.params.rxCap → addr + len ≤ s.params.pmaSize →
    ∃ m, exec .rxComplete s = .next
        ((((s.setEpr ep ((s.eprAt ep &&& 0xCFFF) ||| 0x2000)).setRxBuf m).setRxUnread len).returned .unit [])
      ∧ (∀ k, k < len → (s.setRxBuf m).rxBufByte k = s.pmaByte (addr + k))
      ∧ ∀ k, len ≤ k → (s.setRxBuf m).rxBufByte k = s.rxBufByte k

/-- RX_COMPLETE's faults (R150, R233, R234): RX_REENTRY at line 1, with nothing done; RX_OVERSIZE and PMA_RANGE at line 3,
with STAT_RX already NAK. -/
def Obligations.RxCompleteFaults : Prop :=
  ∀ (s : State), s.issuer = .irq → s.inData = [] →
    let ep := s.params.epOut
    let len := (s.bdtAt ep).rxCount.toNat
    let addr := (s.bdtAt ep).rxAddr.toNat
    let naked := s.setEpr ep ((s.eprAt ep &&& 0xCFFF) ||| 0x2000)
    (s.rxUnread ≠ 0 ∨ s.rxOffset ≠ 0 →
      exec .rxComplete s = .next (s.faulted (.rxReentry s.rxUnread s.rxOffset)))
    ∧ (s.Undisturbed → s.rxUnread = 0 → s.rxOffset = 0 → len > s.params.rxCap →
      exec .rxComplete s = .next (naked.faulted (.rxOversize len)))
    ∧ (s.Undisturbed → s.rxUnread = 0 → s.rxOffset = 0 → len ≤ s.params.rxCap →
      addr + len > s.params.pmaSize →
      exec .rxComplete s = .next (naked.faulted (.pmaRange addr len)))

/-- RX_DRAIN that returns no byte and re-arms nothing: `maxLen = 0`, or nothing unread with DRAIN_EMPTY_REARMS false (R152).
It holds whatever would fall between lines. -/
def Obligations.DrainOfNothingChangesNothing : Prop :=
  ∀ (s : State) maxLen, s.issuer = .task → s.inData = [] →
    (maxLen = 0 ∨ (s.rxUnread = 0 ∧ s.params.drainEmptyRearms = false)) →
    exec (.rxDrain maxLen) s = .next (s.returned (.value 0) [])

/-- RX_DRAIN with bytes unread (R152): the first `n = min maxLen rx_unread` unread bytes in order; fewer than all advance the
offset; all of them reset it and re-arm `EP_OUT`: capacity MAX_PACKET, STAT_RX VALID. Nothing else changes. -/
def Obligations.DrainReturnsUnreadBytes : Prop :=
  ∀ (s : State) maxLen, s.issuer = .task → s.inData = [] → s.Undisturbed → s.rxUnread ≠ 0 → maxLen ≠ 0 →
    let ep := s.params.epOut
    let n := min maxLen.toNat s.rxUnread
    let bytes := (List.range n).map fun k => s.rxBufByte (s.rxOffset + k)
    s.rxOffset + n ≤ s.params.rxCap →
    exec (.rxDrain maxLen) s = .next
      (if maxLen.toNat < s.rxUnread then
        ((s.setRxOffset (s.rxOffset + n)).setRxUnread (s.rxUnread - n)).returned (.value n) bytes
      else
        ((((s.setRxOffset 0).setRxUnread 0).setRxCapacity ep s.params.maxPacket).setEpr ep
          ((s.eprAt ep &&& 0xCFFF) ||| 0x3000)).returned (.value n) bytes)

/-- RX_DRAIN with `maxLen > 0` and nothing unread re-arms the endpoint when DRAIN_EMPTY_REARMS is true (R152, R155), and
returns 0. -/
def Obligations.DrainOfNothingRearmsWhenConfigured : Prop :=
  ∀ (s : State) maxLen, s.issuer = .task → s.inData = [] → s.Undisturbed → s.rxUnread = 0 → maxLen ≠ 0 →
    s.params.drainEmptyRearms = true →
    exec (.rxDrain maxLen) s = .next
      ((((s.setRxOffset 0).setRxCapacity s.params.epOut s.params.maxPacket).setEpr s.params.epOut
        ((s.eprAt s.params.epOut &&& 0xCFFF) ||| 0x3000)).returned (.value 0) [])

/-- Accesses beyond the buffers fault before they change anything (R233, R234): RX_DRAIN beyond RX_CAP, TX_SUBMIT beyond
PMA_SIZE. -/
def Obligations.AccessesBeyondTheBuffersFault : Prop :=
  (∀ (s : State) maxLen, s.issuer = .task → s.inData = [] → s.Undisturbed → s.rxUnread ≠ 0 → maxLen ≠ 0 →
    let n := min maxLen.toNat s.rxUnread
    s.params.rxCap < s.rxOffset + n →
    exec (.rxDrain maxLen) s = .next (s.faulted (.rxOversize n)))
  ∧ ∀ (s : State) len, s.issuer = .task → s.inData.length = len.toNat → s.Undisturbed → s.txPending = 0 →
    let n := min len.toNat s.params.txClamp
    let addr := (s.bdtAt s.params.epIn).txAddr.toNat
    n ≠ 0 → s.params.pmaSize < addr + n →
    exec (.txSubmit len) s = .next (s.faulted (.pmaRange addr n))

/-- R154 over all sizes, for either value of DRAIN_EMPTY_REARMS: RX_DRAINs of any sizes return the unread bytes in order,
nothing left out and nothing repeated; `rx_unread` is 0 once their total reaches it, and the endpoint is then re-armed. -/
def Obligations.DrainsReturnTheUnreadBytesInOrder : Prop :=
  ∀ (s : State) sizes, s.issuer = .task → s.inData = [] → s.Undisturbed →
    s.rxOffset + s.rxUnread ≤ s.params.rxCap →
    let total := (sizes.map BitVec.toNat).sum
    let n := min total s.rxUnread
    ∃ t, drains sizes s = some ((List.range n).map (fun k => s.rxBufByte (s.rxOffset + k)), t)
      ∧ t.rxUnread = s.rxUnread - n
      ∧ (0 < s.rxUnread → s.rxUnread ≤ total →
          t.rxOffset = 0 ∧ statRx (t.eprAt s.params.epOut) = .valid
          ∧ (t.bdtAt s.params.epOut).rxCapacity = Fin.ofNat 1024 s.params.maxPacket)

/-- A packet the host sends to the armed endpoint reaches the application byte for byte (R72, R150, R152, R211, R240): the
WIRE, IRQ and TASK turns of one packet, for either value of RX_AUTO_NAK, end with the packet as RX_DRAIN's data and the
endpoint armed again. Left out: the packet of no byte (R155, R273), and moves between the lines of the three turns. -/
def Obligations.PacketReachesTheApplication : Prop :=
  ∀ (s : State) rest data maxLen,
    let ep := s.params.epOut
    s.schedule = .wire ⟨encode (.hostOut ep (BitVec.ofNat 16 data.length)), data⟩
      :: .irq ⟨encode (.intDispatch ep .rx), []⟩ [] :: .task [] :: rest →
    s.nextItem = some (.cmd ⟨encode (.rxDrain maxLen), []⟩) →
    s.params.Legal → (∀ (who : Agent), s.stopped who = false) → s.irqActive = false →
    statRx (s.eprAt ep) = .valid → s.rxUnread = 0 → s.rxOffset = 0 →
    data ≠ [] → data.length ≤ (s.bdtAt ep).rxCapacity.val → data.length ≤ s.params.maxPacket →
    (s.bdtAt ep).rxAddr.toNat + data.length ≤ s.params.pmaSize → data.length ≤ maxLen.toNat →
    ∃ u v t, step s = .next u ∧ step u = .next v ∧ step v = .next t
      ∧ t.taskPort = ⟨some (.value data.length), data⟩ ∧ t.rxUnread = 0 ∧ t.rxOffset = 0
      ∧ statRx (t.eprAt ep) = .valid ∧ ctrRx (t.eprAt ep) = false
      ∧ t.wireLog = s.wireLog ++ [.outAck ep data] ∧ t.fault = s.fault

/-! ## Transmit channel -/

/-- TX_SUBMIT while a packet is in flight, or of no byte, returns 0 and changes nothing (R170, R173), whatever would fall
between lines. -/
def Obligations.TxSubmitWhileBusyChangesNothing : Prop :=
  ∀ (s : State) len, s.issuer = .task → s.inData.length = len.toNat → (s.txPending ≠ 0 ∨ len = 0) →
    exec (.txSubmit len) s = .next (s.returned (.value 0) [])

/-- TX_SUBMIT with nothing in flight (R170, R173): the first `n = min len TX_CLAMP` bytes are staged in packet memory,
`tx_count` and `tx_pending` become `n`, STAT_TX of `EP_IN` becomes VALID, and `n` is returned; nothing else changes. -/
def Obligations.TxSubmitStagesThePacket : Prop :=
  ∀ (s : State) len, s.issuer = .task → s.inData.length = len.toNat → s.Undisturbed → s.txPending = 0 →
    let ep := s.params.epIn
    let n := min len.toNat s.params.txClamp
    let addr := (s.bdtAt ep).txAddr.toNat
    n ≠ 0 → addr + n ≤ s.params.pmaSize →
    ∃ m, exec (.txSubmit len) s = .next
        (((((s.setPma m).setTxCount ep n).setTxPending n).setEpr ep
          ((s.eprAt ep &&& 0xFFCF) ||| 0x0030)).returned (.value n) [])
      ∧ (∀ k, k < n → s.inData[k]? = some ((s.setPma m).pmaByte (addr + k)))
      ∧ ∀ a, a < addr ∨ addr + n ≤ a → (s.setPma m).pmaByte a = s.pmaByte a

/-- TX_COMPLETE ends the transmission (R171): `tx_pending` is 0, STAT_TX is not touched, nothing else changes. -/
def Obligations.TxCompleteEndsTheTransmission : Prop :=
  ∀ (s : State), s.issuer = .irq → s.inData = [] →
    exec .txComplete s = .next ((s.setTxPending 0).returned .unit [])

/-- What TX_SUBMIT accepts is what the next IN token sends (R72, R174, R214): TASK's turn and the host's turn record one IN
data packet of exactly the accepted bytes. Left out: moves between the lines of TASK's turn. -/
def Obligations.StagedBytesAreSent : Prop :=
  ∀ (s : State) rest data,
    let ep := s.params.epIn
    let n := min data.length s.params.txClamp
    s.schedule = .task [] :: .wire ⟨encode (.hostIn ep), []⟩ :: rest →
    s.nextItem = some (.cmd ⟨encode (.txSubmit (BitVec.ofNat 16 data.length)), data⟩) →
    s.params.Legal → s.taskStopped = false → s.wireStopped = false → s.irqActive = false →
    s.txPending = 0 → data ≠ [] → data.length < 65536 →
    (s.bdtAt ep).txAddr.toNat + n ≤ s.params.pmaSize →
    ∃ u t, step s = .next u ∧ step u = .next t
      ∧ t.taskPort = ⟨some (.value n), []⟩
      ∧ t.wireLog = s.wireLog ++ [.inData ep (data.take n)]
      ∧ t.txPending = n ∧ statTx (t.eprAt ep) = .nak ∧ ctrTx (t.eprAt ep) = true

/-! ## Control lines -/

/-- CTRL_SET_LINE_STATE (R190, R194): DTR and RTS are latched from bits 0 and 1, bits 15:2 are ignored, and the detector moves
by DTR alone; nothing else changes. -/
def Obligations.LineStateRequestLatchesAndAdvances : Prop :=
  ∀ (s : State) value, s.issuer = .irq → s.inData = [] →
    exec (.ctrlSetLineState value) s = .next
      { s.returned .unit [] with
        ctlDtr := value.getLsbD 0
        ctlRts := value.getLsbD 1
        resetState :=
          if value.getLsbD 0 then .high else if s.resetState = .high then .negedge else .low }

/-- CLASS_REQUEST (R200, R116): only a class request to an interface is looked at, its direction bit not; request 0x22 runs
the line of R190 with `wValue` little-endian, 0x20, 0x21 and 0x02 change nothing, and these four are SUPPORTED. -/
def Obligations.ClassRequestClassifies : Prop :=
  ∀ (s : State), s.issuer = .irq → s.inData.length = 8 →
    let bmRT := s.inData.getD 0 0
    let bReq := s.inData.getD 1 0
    let wValue : Half := (s.inData.getD 2 0).setWidth 16 ||| ((s.inData.getD 3 0).setWidth 16 <<< 8)
    exec .classRequest s = .next
      (if bmRT &&& 0x7F ≠ 0x21 then s.returned (.value 0) []
      else if bReq = 0x22 then (setLineState wValue s).returned (.value 1) []
      else if bReq = 0x20 ∨ bReq = 0x21 ∨ bReq = 0x02 then s.returned (.value 1) []
      else s.returned (.value 0) [])

/-- R202: the detector and the control lines change in no turn in which neither IRQ nor RESET moves. -/
def Obligations.LineStateMovesOnlyInInterruptContext : Prop :=
  ∀ (s t : State), (∀ tn ∈ s.schedule.head?, tn.withoutIrqAndReset = true) → step s = .next t → SameLines s t

/-! ## Wire events -/

/-- HOST_OUT to an endpoint that is not VALID (R211): the answer is recorded and nothing else changes. -/
def Obligations.HostOutIsAnsweredByStatus : Prop :=
  ∀ (s : State) (ep : EpNum) len, s.issuer = .wire → s.Admits (.hostOut ep len) →
    (statRx (s.eprAt ep) = .disabled →
      exec (.hostOut ep len) s = .next ((s.log (.outNone ep)).returned .unit []))
    ∧ (statRx (s.eprAt ep) = .stall →
      exec (.hostOut ep len) s = .next ((s.log (.outStall ep)).returned .unit []))
    ∧ (statRx (s.eprAt ep) = .nak →
      exec (.hostOut ep len) s = .next ((s.log (.outNak ep)).returned .unit []))

/-- HOST_OUT to a VALID endpoint (R211): the bytes are stored, `rx_count` is the length, CTR_RX is set, DTOG_RX inverted,
STAT_RX becomes NAK if RX_AUTO_NAK says so; nothing else changes. -/
def Obligations.HostOutAcceptsAPacket : Prop :=
  ∀ (s : State) (ep : EpNum) len, s.issuer = .wire → s.Admits (.hostOut ep len) → statRx (s.eprAt ep) = .valid →
    let addr := (s.bdtAt ep).rxAddr.toNat
    let o := s.eprAt ep
    len.toNat ≤ (s.bdtAt ep).rxCapacity.val → addr + len.toNat ≤ s.params.pmaSize →
    ∃ m n, exec (.hostOut ep len) s = .next
        (((((s.setPma m).setRxCount ep len.toNat).setEpr ep n).log (.outAck ep s.inData)).returned .unit [])
      ∧ (∀ k, k < len.toNat → s.inData[k]? = some ((s.setPma m).pmaByte (addr + k)))
      ∧ (∀ a, a < addr ∨ addr + len.toNat ≤ a → (s.setPma m).pmaByte a = s.pmaByte a)
      ∧ ctrRx n = true ∧ dtogRx n = !dtogRx o
      ∧ statRx n = (if s.params.rxAutoNak then .nak else .valid)
      ∧ ctrTx n = ctrTx o ∧ dtogTx n = dtogTx o ∧ statTx n = statTx o ∧ setupBit n = setupBit o
      ∧ epType n = epType o ∧ epKind n = epKind o ∧ endpointAddress n = endpointAddress o

/-- HOST_OUT beyond its bounds: longer than the capacity is no move (R211, R213, log 4); beyond packet memory is PMA_RANGE
(R233), with nothing changed. -/
def Obligations.HostOutBeyondItsBounds : Prop :=
  ∀ (s : State) (ep : EpNum) len, s.issuer = .wire → s.Admits (.hostOut ep len) → statRx (s.eprAt ep) = .valid →
    let addr := (s.bdtAt ep).rxAddr.toNat
    (len.toNat > (s.bdtAt ep).rxCapacity.val →
      exec (.hostOut ep len) s = .fault (.packetOverCapacity ep len.toNat))
    ∧ (len.toNat ≤ (s.bdtAt ep).rxCapacity.val → addr + len.toNat > s.params.pmaSize →
      exec (.hostOut ep len) s = .next (s.faulted (.pmaRange addr len.toNat)))

/-- HOST_IN to an endpoint that is not VALID (R214): the answer is recorded and nothing else changes. -/
def Obligations.HostInIsAnsweredByStatus : Prop :=
  ∀ (s : State) (ep : EpNum), s.issuer = .wire → s.Admits (.hostIn ep) →
    (statTx (s.eprAt ep) = .disabled →
      exec (.hostIn ep) s = .next ((s.log (.inNone ep)).returned .unit []))
    ∧ (statTx (s.eprAt ep) = .stall →
      exec (.hostIn ep) s = .next ((s.log (.inStall ep)).returned .unit []))
    ∧ (statTx (s.eprAt ep) = .nak →
      exec (.hostIn ep) s = .next ((s.log (.inNak ep)).returned .unit []))

/-- HOST_IN to a VALID endpoint (R214): `tx_count` bytes from `tx_addr` are recorded as sent, CTR_TX is set, DTOG_TX inverted,
STAT_TX becomes NAK; nothing else changes. Beyond packet memory it is PMA_RANGE, with nothing changed. -/
def Obligations.HostInSendsThePacket : Prop :=
  ∀ (s : State) (ep : EpNum), s.issuer = .wire → s.Admits (.hostIn ep) → statTx (s.eprAt ep) = .valid →
    let addr := (s.bdtAt ep).txAddr.toNat
    let count := (s.bdtAt ep).txCount.toNat
    let o := s.eprAt ep
    (addr + count ≤ s.params.pmaSize →
      ∃ n, exec (.hostIn ep) s = .next
          (((s.setEpr ep n).log (.inData ep ((List.range count).map fun k => s.pmaByte (addr + k)))).returned
            .unit [])
        ∧ ctrTx n = true ∧ dtogTx n = !dtogTx o ∧ statTx n = .nak
        ∧ ctrRx n = ctrRx o ∧ dtogRx n = dtogRx o ∧ statRx n = statRx o ∧ setupBit n = setupBit o
        ∧ epType n = epType o ∧ epKind n = epKind o ∧ endpointAddress n = endpointAddress o)
    ∧ (addr + count > s.params.pmaSize →
      exec (.hostIn ep) s = .next (s.faulted (.pmaRange addr count)))

/-- HOST_SETUP (R216, R115, R213): the eight bytes are queued as the pending packet, which spells them again, and nothing
else changes; while one is pending the step is no move (log 4). -/
def Obligations.HostSetupQueuesThePacket : Prop :=
  ∀ (s : State), s.issuer = .wire → s.Admits .hostSetup →
    (s.setupPending = none → ∃ p, exec .hostSetup s = .next ((s.setSetupPending (some p)).returned .unit [])
      ∧ p.bytes = s.inData)
    ∧ (s.setupPending ≠ none → exec .hostSetup s = .fault .setupAlreadyPending)

/-! ## Interrupt dispatch -/

/-- INT_DISPATCH is no move unless no handler runs and the request is pending (R240, log 4). -/
def Obligations.DispatchNeedsAPendingRequest : Prop :=
  ∀ (s : State) (ep : EpNum) src, s.Admits (.intDispatch ep src) → (s.irqActive = true ∨ s.requestPending ep src = false) →
    exec (.intDispatch ep src) s = .fault (.dispatchNotEnabled ep src)

/-- INT_DISPATCH of a packet on `EP_OUT` (R240, R241, R150): CTR_RX is cleared, RX_COMPLETE runs, the handler ends; nothing
else changes. -/
def Obligations.DispatchRxRunsTheReceiveCallback : Prop :=
  ∀ (s : State),
    let ep := s.params.epOut
    let len := (s.bdtAt ep).rxCount.toNat
    let addr := (s.bdtAt ep).rxAddr.toNat
    s.Admits (.intDispatch ep .rx) → s.Undisturbed → s.irqActive = false → ctrRx (s.eprAt ep) = true →
    s.rxUnread = 0 → s.rxOffset = 0 → len ≤ s.params.rxCap → addr + len ≤ s.params.pmaSize →
    ∃ m, exec (.intDispatch ep .rx) s = .next
        ((((s.setEpr ep ((s.eprAt ep &&& 0x4FFF) ||| 0x2000)).setRxBuf m).setRxUnread len).returned .unit [])
      ∧ (∀ k, k < len → (s.setRxBuf m).rxBufByte k = s.pmaByte (addr + k))
      ∧ ∀ k, len ≤ k → (s.setRxBuf m).rxBufByte k = s.rxBufByte k

/-- INT_DISPATCH of a packet on `EP_OUT` while bytes are unread (R150, R240, R234, R272): the request is acknowledged, then
RX_COMPLETE raises RX_REENTRY inside the handler, which does not end. -/
def Obligations.DispatchRxReentryFaults : Prop :=
  ∀ (s : State),
    let ep := s.params.epOut
    s.Admits (.intDispatch ep .rx) → s.Undisturbed → s.irqActive = false → ctrRx (s.eprAt ep) = true →
    (s.rxUnread ≠ 0 ∨ s.rxOffset ≠ 0) →
    exec (.intDispatch ep .rx) s = .next
      (((s.setEpr ep (s.eprAt ep &&& 0x7FFF)).enterHandler).faulted (.rxReentry s.rxUnread s.rxOffset))

/-- INT_DISPATCH of a completion on `EP_IN` (R240, R241, R171): CTR_TX is cleared and `tx_pending` becomes 0; nothing else
changes. -/
def Obligations.DispatchTxEndsTheTransmission : Prop :=
  ∀ (s : State),
    let ep := s.params.epIn
    s.Admits (.intDispatch ep .tx) → s.Undisturbed → s.irqActive = false → ctrTx (s.eprAt ep) = true →
    exec (.intDispatch ep .tx) s = .next
      (((s.setEpr ep (s.eprAt ep &&& 0xFF7F)).setTxPending 0).returned .unit [])

/-- INT_DISPATCH of a request whose callback slot is empty (R240): the request is acknowledged and nothing else happens. -/
def Obligations.DispatchOfAnEmptySlotOnlyAcknowledges : Prop :=
  (∀ (s : State) (ep : EpNum), s.Admits (.intDispatch ep .rx) → s.Undisturbed → s.irqActive = false →
    ctrRx (s.eprAt ep) = true → ep ≠ s.params.epOut →
    exec (.intDispatch ep .rx) s = .next ((s.setEpr ep (s.eprAt ep &&& 0x7FFF)).returned .unit []))
  ∧ ∀ (s : State) (ep : EpNum), s.Admits (.intDispatch ep .tx) → s.Undisturbed → s.irqActive = false →
    ctrTx (s.eprAt ep) = true → ep ≠ s.params.epIn →
    exec (.intDispatch ep .tx) s = .next ((s.setEpr ep (s.eprAt ep &&& 0xFF7F)).returned .unit [])

/-- INT_DISPATCH of a SETUP packet (R240, R200, R201): the packet is taken, classified as CLASS_REQUEST would, and the
result recorded on the wire; no endpoint register changes. -/
def Obligations.DispatchSetupClassifiesThePacket : Prop :=
  ∀ (s : State) p, s.Admits (.intDispatch 0 .setup) → s.Undisturbed → s.irqActive = false →
    s.setupPending = some p →
    let classInterface := p.bmRequestType &&& 0x7F = 0x21
    let supported : Bool :=
      classInterface ∧ (p.bRequest = 0x22 ∨ p.bRequest = 0x20 ∨ p.bRequest = 0x21 ∨ p.bRequest = 0x02)
    let u := s.setSetupPending none
    exec (.intDispatch 0 .setup) s = .next
      (((if classInterface ∧ p.bRequest = 0x22 then setLineState p.wValue u else u).log
        (.setup supported)).returned .unit [])

/-- R241: the bits of the acknowledging word (its CTR bit 0, the other 1, the toggles 0, the read-write fields as read), and
that it clears the named flag alone. `o` is the register line 2 finds, `r` what line 1 read: the other flag, the toggles, the
statuses and SETUP stay as found, the read-write fields are as read. -/
def Obligations.AcknowledgeClearsOnlyItsFlag : Prop :=
  ∀ o r : Half,
    (let w := ackRxWord r
     let n := eprWritten o w
     w.getLsbD 15 = false ∧ w.getLsbD 7 = true ∧ w &&& 0x7070 = 0 ∧ w &&& 0x070F = r &&& 0x070F
     ∧ ctrRx n = false ∧ ctrTx n = ctrTx o ∧ dtogRx n = dtogRx o ∧ statRx n = statRx o
     ∧ dtogTx n = dtogTx o ∧ statTx n = statTx o ∧ setupBit n = setupBit o
     ∧ epType n = epType r ∧ epKind n = epKind r ∧ endpointAddress n = endpointAddress r)
    ∧ (let w := ackTxWord r
     let n := eprWritten o w
     w.getLsbD 7 = false ∧ w.getLsbD 15 = true ∧ w &&& 0x7070 = 0 ∧ w &&& 0x070F = r &&& 0x070F
     ∧ ctrTx n = false ∧ ctrRx n = ctrRx o ∧ dtogRx n = dtogRx o ∧ statRx n = statRx o
     ∧ dtogTx n = dtogTx o ∧ statTx n = statTx o ∧ setupBit n = setupBit o
     ∧ epType n = epType r ∧ epKind n = epKind r ∧ endpointAddress n = endpointAddress r)

/-! ## RESET and CONFIGURE -/

/-- RESET in any state (R59, R260): every element takes its reset value, the descriptors and both memories new draws (log 9);
`fault` and `refused` are kept; no handler runs and no request is pending; TASK's program starts again, and no agent stays
stopped (log 8). -/
def Obligations.ResetSetsEveryElement : Prop :=
  ∀ (s : State) rest, s.schedule = .reset :: rest → ∃ t, step s = .next t
    ∧ (∀ (ep : EpNum), t.eprAt ep = 0x0000)
    ∧ (∀ (ep : EpNum), t.bdtAt ep = Descriptor.drawn (s.resets + 1) ep.toNat)
    ∧ (∀ a, t.pmaByte a = Config.pmaDraw (s.resets + 1) a)
    ∧ (∀ a, t.rxBufByte a = Config.rxBufDraw (s.resets + 1) a)
    ∧ t.rxUnread = 0 ∧ t.rxOffset = 0 ∧ t.txPending = 0
    ∧ t.resetState = .unset ∧ t.ctlDtr = false ∧ t.ctlRts = false
    ∧ t.irqActive = false ∧ t.setupPending = none ∧ t.wireLog = []
    ∧ t.fault = s.fault ∧ t.refused = s.refused ∧ t.refusal = s.refusal
    ∧ (∀ (ep : EpNum) src, t.requestPending ep src = false)
    ∧ t.taskNext = 0 ∧ (∀ (who : Agent), t.stopped who = false) ∧ (∀ (who : Agent), t.port who = Port.empty)
    ∧ t.params = s.params ∧ t.program = s.program ∧ t.programTail = s.programTail ∧ t.schedule = rest
    ∧ t.fresh = true

/-- CONFIGURE (R262), the first step after RESET, with legal parameters: the four registers, the two addresses and the
capacity of the table; every element it does not name is unchanged. -/
def Obligations.ConfigureSetsTheCdcEndpoints : Prop :=
  ∀ (s : State) rest, s.schedule = .configure :: rest → s.fresh = true → s.params.Legal →
    let p := s.params
    ∃ t, step s = .next t
    ∧ t.eprAt 0 = 0x3220
    ∧ t.eprAt p.epOut = 0x3000 ||| p.epOut.setWidth 16
    ∧ t.eprAt p.epIn = 0x0020 ||| p.epIn.setWidth 16
    ∧ t.eprAt p.epNotify = 0x0620 ||| p.epNotify.setWidth 16
    ∧ (∀ (e : EpNum), e ≠ 0 → e ≠ p.epOut → e ≠ p.epIn → e ≠ p.epNotify → t.eprAt e = s.eprAt e)
    ∧ t.bdtAt p.epOut = { s.bdtAt p.epOut with
        rxAddr := p.pmaRxAddr, rxCapacity := Fin.ofNat 1024 p.maxPacket }
    ∧ t.bdtAt p.epIn = { s.bdtAt p.epIn with txAddr := p.pmaTxAddr }
    ∧ (∀ (e : EpNum), e ≠ p.epOut → e ≠ p.epIn → t.bdtAt e = s.bdtAt e)
    ∧ t = { s with epr := t.epr, bdt := t.bdt, schedule := rest, fresh := false }

/-- CONFIGURE runs once after each RESET, before every other step (R262, log 16), and is refused for parameters that break
the constraints (R11, R74). -/
def Obligations.ConfigureRunsOnceWithLegalParameters : Prop :=
  ∀ (s : State) rest, s.schedule = .configure :: rest →
    (s.fresh = false → step s = .fault .configureTooLate)
    ∧ (s.fresh = true → ¬ s.params.Legal → step s = .refused .illegalParameters)

/-- R264: the configured state, for every legal choice of the parameters, satisfies the invariants of R55 to R58; nothing is
unread or in flight, STAT_TX of `EP_IN` is NAK and both its flags are 0. -/
def Obligations.ConfiguredStateMeetsTheChannelInvariants : Prop :=
  ∀ p : Params, p.Legal →
    let s := (State.powerOn p).configure
    s.ChannelInv ∧ s.rxUnread = 0 ∧ s.rxOffset = 0 ∧ s.txPending = 0
    ∧ statTx (s.eprAt p.epIn) = .nak ∧ ctrRx (s.eprAt p.epIn) = false ∧ ctrTx (s.eprAt p.epIn) = false

/-- The state after reset meets the invariants that every step keeps, and holds the values of R59. -/
def Obligations.ResetStateMeetsTheInvariants : Prop :=
  State.reset.memoryWf ∧ State.reset.setupBitsClear ∧ State.reset.handlerEnded ∧ State.reset.refusalRecorded
  ∧ State.reset.ChannelInv
  ∧ (∀ (ep : EpNum), State.reset.eprAt ep = 0x0000) ∧ State.reset.resetState = .unset
  ∧ (∀ (ep : EpNum) src, State.reset.requestPending ep src = false)
  ∧ State.reset.fault = none ∧ State.reset.refused = false

/-! ## Invariants -/

/-- Every step keeps both memories in canonical form (log 10). -/
def Obligations.EveryStepKeepsMemoryCanonical : Prop :=
  ∀ (s t : State), s.memoryWf → step s = .next t → t.memoryWf

/-- R37: no step of the block sets a SETUP bit. -/
def Obligations.EveryStepKeepsSetupBitsClear : Prop :=
  ∀ (s t : State), s.setupBitsClear → step s = .next t → t.setupBitsClear

/-- Handlers run to completion within a step (R10, R242): between two steps `irq_active` is true only if a fault has stopped
IRQ inside a handler (R234). -/
def Obligations.EveryStepEndsItsHandlers : Prop :=
  ∀ (s t : State), s.handlerEnded → step s = .next t → t.handlerEnded

/-- The parameters and TASK's program are arguments, not state (R62, log 1, 17): no step changes them. And a refusal is
recorded exactly when `refused` is set (log 12). -/
def Obligations.EveryStepKeepsTheArguments : Prop :=
  ∀ (s t : State), step s = .next t →
    t.params = s.params ∧ t.program = s.program ∧ t.programTail = s.programTail
    ∧ (s.refusalRecorded → t.refusalRecorded)

/-- What CLEAN, exactly as R54 states it, keeps over a fault-free step, for all legal parameters; and what more is kept
under a premise that R54 does not name and without which the rule fails (log 24).
CLEAN alone, whatever falls between lines: R58, and the source's own bounds in R55; and at the points between two lines of a
command that IRQ issues in a turn of its own, while `irq_active` is false, each of R55 to R58 (log 28).
CLEAN and nothing between the turn's lines (or RX_AUTO_NAK false and no IRQ command between TASK's lines): R56.
CLEAN and callbacks by INT_DISPATCH alone, whatever falls between lines: R55, R57 and R58; and R56 with them where
RX_AUTO_NAK is true, unless RX_DRAIN re-arms an empty buffer (DRAIN_EMPTY_REARMS true) while a packet waits or a move falls
between its lines.
And so over runs, with the premises of the last two lines: R54 at every quiescent point of every fault-free run. -/
def Obligations.CleanStepKeepsTheChannelInvariants : Prop :=
  (∀ (s t : State), s.params.Legal → s.NextTurnClean → step s = .next t → t.fault = none →
    (s.TxBound → t.TxBound)
    ∧ (s.RxWithinBuffer → t.RxWithinBuffer)
    ∧ ((∀ tn ∈ s.schedule.head?, tn.undisturbed = true ∨ (s.params.rxAutoNak = false ∧ tn.uninterrupted = true)) →
      s.FreshEmpty ∧ s.RxHandshake → t.FreshEmpty ∧ t.RxHandshake)
    ∧ (s.NextTurnDispatches → s.ChannelBounds → t.ChannelBounds)
    ∧ (s.NextTurnDispatches → s.NextTurnRearmsSafely → s.params.rxAutoNak = true → s.ChannelInv → t.ChannelInv))
  ∧ (∀ (s m : State), s.params.Legal → s.NextTurnClean → s.irqTurnPoint = some m → m.fault = none →
    m.irqActive = false →
    (s.RxBounds → m.RxBounds) ∧ (s.RxHandshake → m.RxHandshake) ∧ (s.TxInFlight → m.TxInFlight)
    ∧ (s.TxBound → m.TxBound))
  ∧ ∀ (p : Params) (m : State), p.Legal → m.fault = none →
    (QuiescentPoint p (fun s => s.NextTurnClean ∧ s.NextTurnDispatches) m →
      m.RxBounds ∧ m.params.maxPacket ≤ m.params.rxCap ∧ m.TxInFlight ∧ m.TxBound)
    ∧ (p.rxAutoNak = true →
      QuiescentPoint p (fun s => s.NextTurnClean ∧ s.NextTurnDispatches ∧ s.NextTurnRearmsSafely) m →
      m.ChannelRules)

/-- R54 as it stands: R55 to R58 at every quiescent point of every fault-free run under CLEAN. It is FALSE of the line rules
(log 24): a raw TX_COMPLETE, which CLEAN allows, ends a transmission whose packet is still armed (R171 says that STAT_TX is not
touched), so R57 fails; a raw RX_COMPLETE breaks R55, and moves between lines break R56. Stated so that the failure is proved,
not only told. -/
def Obligations.CleanRunsMeetTheChannelInvariants : Prop :=
  ∀ (p : Params) (m : State), p.Legal → QuiescentPoint p State.NextTurnClean m → m.fault = none → m.ChannelRules
end

