-- ==== Sys2Proof/Laws/State.lean ====
section
/-! SUPPORT. What each update of the state leaves unchanged: one lemma per field per update, so that no proof unfolds a
record update. And what it changes. -/

namespace Sys2Proof.Machine

variable (s : State)

/-! `State.setEpr` -/

@[simp] theorem State.setEpr_bdt (ep : EpNum) (v : Half) : (s.setEpr ep v).bdt = s.bdt := rfl
@[simp] theorem State.setEpr_pma (ep : EpNum) (v : Half) : (s.setEpr ep v).pma = s.pma := rfl
@[simp] theorem State.setEpr_rxBuf (ep : EpNum) (v : Half) : (s.setEpr ep v).rxBuf = s.rxBuf := rfl
@[simp] theorem State.setEpr_rxUnread (ep : EpNum) (v : Half) : (s.setEpr ep v).rxUnread = s.rxUnread := rfl
@[simp] theorem State.setEpr_rxOffset (ep : EpNum) (v : Half) : (s.setEpr ep v).rxOffset = s.rxOffset := rfl
@[simp] theorem State.setEpr_txPending (ep : EpNum) (v : Half) : (s.setEpr ep v).txPending = s.txPending := rfl
@[simp] theorem State.setEpr_resetState (ep : EpNum) (v : Half) : (s.setEpr ep v).resetState = s.resetState := rfl
@[simp] theorem State.setEpr_ctlDtr (ep : EpNum) (v : Half) : (s.setEpr ep v).ctlDtr = s.ctlDtr := rfl
@[simp] theorem State.setEpr_ctlRts (ep : EpNum) (v : Half) : (s.setEpr ep v).ctlRts = s.ctlRts := rfl
@[simp] theorem State.setEpr_irqActive (ep : EpNum) (v : Half) : (s.setEpr ep v).irqActive = s.irqActive := rfl
@[simp] theorem State.setEpr_setupPending (ep : EpNum) (v : Half) : (s.setEpr ep v).setupPending = s.setupPending := rfl
@[simp] theorem State.setEpr_wireLog (ep : EpNum) (v : Half) : (s.setEpr ep v).wireLog = s.wireLog := rfl
@[simp] theorem State.setEpr_fault (ep : EpNum) (v : Half) : (s.setEpr ep v).fault = s.fault := rfl
@[simp] theorem State.setEpr_refused (ep : EpNum) (v : Half) : (s.setEpr ep v).refused = s.refused := rfl
@[simp] theorem State.setEpr_refusal (ep : EpNum) (v : Half) : (s.setEpr ep v).refusal = s.refusal := rfl
@[simp] theorem State.setEpr_taskStopped (ep : EpNum) (v : Half) : (s.setEpr ep v).taskStopped = s.taskStopped := rfl
@[simp] theorem State.setEpr_irqStopped (ep : EpNum) (v : Half) : (s.setEpr ep v).irqStopped = s.irqStopped := rfl
@[simp] theorem State.setEpr_wireStopped (ep : EpNum) (v : Half) : (s.setEpr ep v).wireStopped = s.wireStopped := rfl
@[simp] theorem State.setEpr_taskPort (ep : EpNum) (v : Half) : (s.setEpr ep v).taskPort = s.taskPort := rfl
@[simp] theorem State.setEpr_irqPort (ep : EpNum) (v : Half) : (s.setEpr ep v).irqPort = s.irqPort := rfl
@[simp] theorem State.setEpr_wirePort (ep : EpNum) (v : Half) : (s.setEpr ep v).wirePort = s.wirePort := rfl
@[simp] theorem State.setEpr_issuer (ep : EpNum) (v : Half) : (s.setEpr ep v).issuer = s.issuer := rfl
@[simp] theorem State.setEpr_inData (ep : EpNum) (v : Half) : (s.setEpr ep v).inData = s.inData := rfl
@[simp] theorem State.setEpr_taskGaps (ep : EpNum) (v : Half) : (s.setEpr ep v).taskGaps = s.taskGaps := rfl
@[simp] theorem State.setEpr_irqGaps (ep : EpNum) (v : Half) : (s.setEpr ep v).irqGaps = s.irqGaps := rfl
@[simp] theorem State.setEpr_params (ep : EpNum) (v : Half) : (s.setEpr ep v).params = s.params := rfl
@[simp] theorem State.setEpr_program (ep : EpNum) (v : Half) : (s.setEpr ep v).program = s.program := rfl
@[simp] theorem State.setEpr_programTail (ep : EpNum) (v : Half) : (s.setEpr ep v).programTail = s.programTail := rfl
@[simp] theorem State.setEpr_taskNext (ep : EpNum) (v : Half) : (s.setEpr ep v).taskNext = s.taskNext := rfl
@[simp] theorem State.setEpr_schedule (ep : EpNum) (v : Half) : (s.setEpr ep v).schedule = s.schedule := rfl
@[simp] theorem State.setEpr_fresh (ep : EpNum) (v : Half) : (s.setEpr ep v).fresh = s.fresh := rfl
@[simp] theorem State.setEpr_resets (ep : EpNum) (v : Half) : (s.setEpr ep v).resets = s.resets := rfl

/-! `State.eprWrite` -/

@[simp] theorem State.eprWrite_bdt (ep : EpNum) (w : Half) : (s.eprWrite ep w).bdt = s.bdt := rfl
@[simp] theorem State.eprWrite_pma (ep : EpNum) (w : Half) : (s.eprWrite ep w).pma = s.pma := rfl
@[simp] theorem State.eprWrite_rxBuf (ep : EpNum) (w : Half) : (s.eprWrite ep w).rxBuf = s.rxBuf := rfl
@[simp] theorem State.eprWrite_rxUnread (ep : EpNum) (w : Half) : (s.eprWrite ep w).rxUnread = s.rxUnread := rfl
@[simp] theorem State.eprWrite_rxOffset (ep : EpNum) (w : Half) : (s.eprWrite ep w).rxOffset = s.rxOffset := rfl
@[simp] theorem State.eprWrite_txPending (ep : EpNum) (w : Half) : (s.eprWrite ep w).txPending = s.txPending := rfl
@[simp] theorem State.eprWrite_resetState (ep : EpNum) (w : Half) : (s.eprWrite ep w).resetState = s.resetState := rfl
@[simp] theorem State.eprWrite_ctlDtr (ep : EpNum) (w : Half) : (s.eprWrite ep w).ctlDtr = s.ctlDtr := rfl
@[simp] theorem State.eprWrite_ctlRts (ep : EpNum) (w : Half) : (s.eprWrite ep w).ctlRts = s.ctlRts := rfl
@[simp] theorem State.eprWrite_irqActive (ep : EpNum) (w : Half) : (s.eprWrite ep w).irqActive = s.irqActive := rfl
@[simp] theorem State.eprWrite_setupPending (ep : EpNum) (w : Half) : (s.eprWrite ep w).setupPending = s.setupPending := rfl
@[simp] theorem State.eprWrite_wireLog (ep : EpNum) (w : Half) : (s.eprWrite ep w).wireLog = s.wireLog := rfl
@[simp] theorem State.eprWrite_fault (ep : EpNum) (w : Half) : (s.eprWrite ep w).fault = s.fault := rfl
@[simp] theorem State.eprWrite_refused (ep : EpNum) (w : Half) : (s.eprWrite ep w).refused = s.refused := rfl
@[simp] theorem State.eprWrite_refusal (ep : EpNum) (w : Half) : (s.eprWrite ep w).refusal = s.refusal := rfl
@[simp] theorem State.eprWrite_taskStopped (ep : EpNum) (w : Half) : (s.eprWrite ep w).taskStopped = s.taskStopped := rfl
@[simp] theorem State.eprWrite_irqStopped (ep : EpNum) (w : Half) : (s.eprWrite ep w).irqStopped = s.irqStopped := rfl
@[simp] theorem State.eprWrite_wireStopped (ep : EpNum) (w : Half) : (s.eprWrite ep w).wireStopped = s.wireStopped := rfl
@[simp] theorem State.eprWrite_taskPort (ep : EpNum) (w : Half) : (s.eprWrite ep w).taskPort = s.taskPort := rfl
@[simp] theorem State.eprWrite_irqPort (ep : EpNum) (w : Half) : (s.eprWrite ep w).irqPort = s.irqPort := rfl
@[simp] theorem State.eprWrite_wirePort (ep : EpNum) (w : Half) : (s.eprWrite ep w).wirePort = s.wirePort := rfl
@[simp] theorem State.eprWrite_issuer (ep : EpNum) (w : Half) : (s.eprWrite ep w).issuer = s.issuer := rfl
@[simp] theorem State.eprWrite_inData (ep : EpNum) (w : Half) : (s.eprWrite ep w).inData = s.inData := rfl
@[simp] theorem State.eprWrite_taskGaps (ep : EpNum) (w : Half) : (s.eprWrite ep w).taskGaps = s.taskGaps := rfl
@[simp] theorem State.eprWrite_irqGaps (ep : EpNum) (w : Half) : (s.eprWrite ep w).irqGaps = s.irqGaps := rfl
@[simp] theorem State.eprWrite_params (ep : EpNum) (w : Half) : (s.eprWrite ep w).params = s.params := rfl
@[simp] theorem State.eprWrite_program (ep : EpNum) (w : Half) : (s.eprWrite ep w).program = s.program := rfl
@[simp] theorem State.eprWrite_programTail (ep : EpNum) (w : Half) : (s.eprWrite ep w).programTail = s.programTail := rfl
@[simp] theorem State.eprWrite_taskNext (ep : EpNum) (w : Half) : (s.eprWrite ep w).taskNext = s.taskNext := rfl
@[simp] theorem State.eprWrite_schedule (ep : EpNum) (w : Half) : (s.eprWrite ep w).schedule = s.schedule := rfl
@[simp] theorem State.eprWrite_fresh (ep : EpNum) (w : Half) : (s.eprWrite ep w).fresh = s.fresh := rfl
@[simp] theorem State.eprWrite_resets (ep : EpNum) (w : Half) : (s.eprWrite ep w).resets = s.resets := rfl

/-! `State.setBdt` -/

@[simp] theorem State.setBdt_epr (ep : EpNum) (d : Descriptor) : (s.setBdt ep d).epr = s.epr := rfl
@[simp] theorem State.setBdt_pma (ep : EpNum) (d : Descriptor) : (s.setBdt ep d).pma = s.pma := rfl
@[simp] theorem State.setBdt_rxBuf (ep : EpNum) (d : Descriptor) : (s.setBdt ep d).rxBuf = s.rxBuf := rfl
@[simp] theorem State.setBdt_rxUnread (ep : EpNum) (d : Descriptor) : (s.setBdt ep d).rxUnread = s.rxUnread := rfl
@[simp] theorem State.setBdt_rxOffset (ep : EpNum) (d : Descriptor) : (s.setBdt ep d).rxOffset = s.rxOffset := rfl
@[simp] theorem State.setBdt_txPending (ep : EpNum) (d : Descriptor) : (s.setBdt ep d).txPending = s.txPending := rfl
@[simp] theorem State.setBdt_resetState (ep : EpNum) (d : Descriptor) : (s.setBdt ep d).resetState = s.resetState := rfl
@[simp] theorem State.setBdt_ctlDtr (ep : EpNum) (d : Descriptor) : (s.setBdt ep d).ctlDtr = s.ctlDtr := rfl
@[simp] theorem State.setBdt_ctlRts (ep : EpNum) (d : Descriptor) : (s.setBdt ep d).ctlRts = s.ctlRts := rfl
@[simp] theorem State.setBdt_irqActive (ep : EpNum) (d : Descriptor) : (s.setBdt ep d).irqActive = s.irqActive := rfl
@[simp] theorem State.setBdt_setupPending (ep : EpNum) (d : Descriptor) : (s.setBdt ep d).setupPending = s.setupPending := rfl
@[simp] theorem State.setBdt_wireLog (ep : EpNum) (d : Descriptor) : (s.setBdt ep d).wireLog = s.wireLog := rfl
@[simp] theorem State.setBdt_fault (ep : EpNum) (d : Descriptor) : (s.setBdt ep d).fault = s.fault := rfl
@[simp] theorem State.setBdt_refused (ep : EpNum) (d : Descriptor) : (s.setBdt ep d).refused = s.refused := rfl
@[simp] theorem State.setBdt_refusal (ep : EpNum) (d : Descriptor) : (s.setBdt ep d).refusal = s.refusal := rfl
@[simp] theorem State.setBdt_taskStopped (ep : EpNum) (d : Descriptor) : (s.setBdt ep d).taskStopped = s.taskStopped := rfl
@[simp] theorem State.setBdt_irqStopped (ep : EpNum) (d : Descriptor) : (s.setBdt ep d).irqStopped = s.irqStopped := rfl
@[simp] theorem State.setBdt_wireStopped (ep : EpNum) (d : Descriptor) : (s.setBdt ep d).wireStopped = s.wireStopped := rfl
@[simp] theorem State.setBdt_taskPort (ep : EpNum) (d : Descriptor) : (s.setBdt ep d).taskPort = s.taskPort := rfl
@[simp] theorem State.setBdt_irqPort (ep : EpNum) (d : Descriptor) : (s.setBdt ep d).irqPort = s.irqPort := rfl
@[simp] theorem State.setBdt_wirePort (ep : EpNum) (d : Descriptor) : (s.setBdt ep d).wirePort = s.wirePort := rfl
@[simp] theorem State.setBdt_issuer (ep : EpNum) (d : Descriptor) : (s.setBdt ep d).issuer = s.issuer := rfl
@[simp] theorem State.setBdt_inData (ep : EpNum) (d : Descriptor) : (s.setBdt ep d).inData = s.inData := rfl
@[simp] theorem State.setBdt_taskGaps (ep : EpNum) (d : Descriptor) : (s.setBdt ep d).taskGaps = s.taskGaps := rfl
@[simp] theorem State.setBdt_irqGaps (ep : EpNum) (d : Descriptor) : (s.setBdt ep d).irqGaps = s.irqGaps := rfl
@[simp] theorem State.setBdt_params (ep : EpNum) (d : Descriptor) : (s.setBdt ep d).params = s.params := rfl
@[simp] theorem State.setBdt_program (ep : EpNum) (d : Descriptor) : (s.setBdt ep d).program = s.program := rfl
@[simp] theorem State.setBdt_programTail (ep : EpNum) (d : Descriptor) : (s.setBdt ep d).programTail = s.programTail := rfl
@[simp] theorem State.setBdt_taskNext (ep : EpNum) (d : Descriptor) : (s.setBdt ep d).taskNext = s.taskNext := rfl
@[simp] theorem State.setBdt_schedule (ep : EpNum) (d : Descriptor) : (s.setBdt ep d).schedule = s.schedule := rfl
@[simp] theorem State.setBdt_fresh (ep : EpNum) (d : Descriptor) : (s.setBdt ep d).fresh = s.fresh := rfl
@[simp] theorem State.setBdt_resets (ep : EpNum) (d : Descriptor) : (s.setBdt ep d).resets = s.resets := rfl

/-! `State.setTxCount` -/

@[simp] theorem State.setTxCount_epr (ep : EpNum) (n : Nat) : (s.setTxCount ep n).epr = s.epr := rfl
@[simp] theorem State.setTxCount_pma (ep : EpNum) (n : Nat) : (s.setTxCount ep n).pma = s.pma := rfl
@[simp] theorem State.setTxCount_rxBuf (ep : EpNum) (n : Nat) : (s.setTxCount ep n).rxBuf = s.rxBuf := rfl
@[simp] theorem State.setTxCount_rxUnread (ep : EpNum) (n : Nat) : (s.setTxCount ep n).rxUnread = s.rxUnread := rfl
@[simp] theorem State.setTxCount_rxOffset (ep : EpNum) (n : Nat) : (s.setTxCount ep n).rxOffset = s.rxOffset := rfl
@[simp] theorem State.setTxCount_txPending (ep : EpNum) (n : Nat) : (s.setTxCount ep n).txPending = s.txPending := rfl
@[simp] theorem State.setTxCount_resetState (ep : EpNum) (n : Nat) : (s.setTxCount ep n).resetState = s.resetState := rfl
@[simp] theorem State.setTxCount_ctlDtr (ep : EpNum) (n : Nat) : (s.setTxCount ep n).ctlDtr = s.ctlDtr := rfl
@[simp] theorem State.setTxCount_ctlRts (ep : EpNum) (n : Nat) : (s.setTxCount ep n).ctlRts = s.ctlRts := rfl
@[simp] theorem State.setTxCount_irqActive (ep : EpNum) (n : Nat) : (s.setTxCount ep n).irqActive = s.irqActive := rfl
@[simp] theorem State.setTxCount_setupPending (ep : EpNum) (n : Nat) : (s.setTxCount ep n).setupPending = s.setupPending := rfl
@[simp] theorem State.setTxCount_wireLog (ep : EpNum) (n : Nat) : (s.setTxCount ep n).wireLog = s.wireLog := rfl
@[simp] theorem State.setTxCount_fault (ep : EpNum) (n : Nat) : (s.setTxCount ep n).fault = s.fault := rfl
@[simp] theorem State.setTxCount_refused (ep : EpNum) (n : Nat) : (s.setTxCount ep n).refused = s.refused := rfl
@[simp] theorem State.setTxCount_refusal (ep : EpNum) (n : Nat) : (s.setTxCount ep n).refusal = s.refusal := rfl
@[simp] theorem State.setTxCount_taskStopped (ep : EpNum) (n : Nat) : (s.setTxCount ep n).taskStopped = s.taskStopped := rfl
@[simp] theorem State.setTxCount_irqStopped (ep : EpNum) (n : Nat) : (s.setTxCount ep n).irqStopped = s.irqStopped := rfl
@[simp] theorem State.setTxCount_wireStopped (ep : EpNum) (n : Nat) : (s.setTxCount ep n).wireStopped = s.wireStopped := rfl
@[simp] theorem State.setTxCount_taskPort (ep : EpNum) (n : Nat) : (s.setTxCount ep n).taskPort = s.taskPort := rfl
@[simp] theorem State.setTxCount_irqPort (ep : EpNum) (n : Nat) : (s.setTxCount ep n).irqPort = s.irqPort := rfl
@[simp] theorem State.setTxCount_wirePort (ep : EpNum) (n : Nat) : (s.setTxCount ep n).wirePort = s.wirePort := rfl
@[simp] theorem State.setTxCount_issuer (ep : EpNum) (n : Nat) : (s.setTxCount ep n).issuer = s.issuer := rfl
@[simp] theorem State.setTxCount_inData (ep : EpNum) (n : Nat) : (s.setTxCount ep n).inData = s.inData := rfl
@[simp] theorem State.setTxCount_taskGaps (ep : EpNum) (n : Nat) : (s.setTxCount ep n).taskGaps = s.taskGaps := rfl
@[simp] theorem State.setTxCount_irqGaps (ep : EpNum) (n : Nat) : (s.setTxCount ep n).irqGaps = s.irqGaps := rfl
@[simp] theorem State.setTxCount_params (ep : EpNum) (n : Nat) : (s.setTxCount ep n).params = s.params := rfl
@[simp] theorem State.setTxCount_program (ep : EpNum) (n : Nat) : (s.setTxCount ep n).program = s.program := rfl
@[simp] theorem State.setTxCount_programTail (ep : EpNum) (n : Nat) : (s.setTxCount ep n).programTail = s.programTail := rfl
@[simp] theorem State.setTxCount_taskNext (ep : EpNum) (n : Nat) : (s.setTxCount ep n).taskNext = s.taskNext := rfl
@[simp] theorem State.setTxCount_schedule (ep : EpNum) (n : Nat) : (s.setTxCount ep n).schedule = s.schedule := rfl
@[simp] theorem State.setTxCount_fresh (ep : EpNum) (n : Nat) : (s.setTxCount ep n).fresh = s.fresh := rfl
@[simp] theorem State.setTxCount_resets (ep : EpNum) (n : Nat) : (s.setTxCount ep n).resets = s.resets := rfl

/-! `State.setRxCount` -/

@[simp] theorem State.setRxCount_epr (ep : EpNum) (n : Nat) : (s.setRxCount ep n).epr = s.epr := rfl
@[simp] theorem State.setRxCount_pma (ep : EpNum) (n : Nat) : (s.setRxCount ep n).pma = s.pma := rfl
@[simp] theorem State.setRxCount_rxBuf (ep : EpNum) (n : Nat) : (s.setRxCount ep n).rxBuf = s.rxBuf := rfl
@[simp] theorem State.setRxCount_rxUnread (ep : EpNum) (n : Nat) : (s.setRxCount ep n).rxUnread = s.rxUnread := rfl
@[simp] theorem State.setRxCount_rxOffset (ep : EpNum) (n : Nat) : (s.setRxCount ep n).rxOffset = s.rxOffset := rfl
@[simp] theorem State.setRxCount_txPending (ep : EpNum) (n : Nat) : (s.setRxCount ep n).txPending = s.txPending := rfl
@[simp] theorem State.setRxCount_resetState (ep : EpNum) (n : Nat) : (s.setRxCount ep n).resetState = s.resetState := rfl
@[simp] theorem State.setRxCount_ctlDtr (ep : EpNum) (n : Nat) : (s.setRxCount ep n).ctlDtr = s.ctlDtr := rfl
@[simp] theorem State.setRxCount_ctlRts (ep : EpNum) (n : Nat) : (s.setRxCount ep n).ctlRts = s.ctlRts := rfl
@[simp] theorem State.setRxCount_irqActive (ep : EpNum) (n : Nat) : (s.setRxCount ep n).irqActive = s.irqActive := rfl
@[simp] theorem State.setRxCount_setupPending (ep : EpNum) (n : Nat) : (s.setRxCount ep n).setupPending = s.setupPending := rfl
@[simp] theorem State.setRxCount_wireLog (ep : EpNum) (n : Nat) : (s.setRxCount ep n).wireLog = s.wireLog := rfl
@[simp] theorem State.setRxCount_fault (ep : EpNum) (n : Nat) : (s.setRxCount ep n).fault = s.fault := rfl
@[simp] theorem State.setRxCount_refused (ep : EpNum) (n : Nat) : (s.setRxCount ep n).refused = s.refused := rfl
@[simp] theorem State.setRxCount_refusal (ep : EpNum) (n : Nat) : (s.setRxCount ep n).refusal = s.refusal := rfl
@[simp] theorem State.setRxCount_taskStopped (ep : EpNum) (n : Nat) : (s.setRxCount ep n).taskStopped = s.taskStopped := rfl
@[simp] theorem State.setRxCount_irqStopped (ep : EpNum) (n : Nat) : (s.setRxCount ep n).irqStopped = s.irqStopped := rfl
@[simp] theorem State.setRxCount_wireStopped (ep : EpNum) (n : Nat) : (s.setRxCount ep n).wireStopped = s.wireStopped := rfl
@[simp] theorem State.setRxCount_taskPort (ep : EpNum) (n : Nat) : (s.setRxCount ep n).taskPort = s.taskPort := rfl
@[simp] theorem State.setRxCount_irqPort (ep : EpNum) (n : Nat) : (s.setRxCount ep n).irqPort = s.irqPort := rfl
@[simp] theorem State.setRxCount_wirePort (ep : EpNum) (n : Nat) : (s.setRxCount ep n).wirePort = s.wirePort := rfl
@[simp] theorem State.setRxCount_issuer (ep : EpNum) (n : Nat) : (s.setRxCount ep n).issuer = s.issuer := rfl
@[simp] theorem State.setRxCount_inData (ep : EpNum) (n : Nat) : (s.setRxCount ep n).inData = s.inData := rfl
@[simp] theorem State.setRxCount_taskGaps (ep : EpNum) (n : Nat) : (s.setRxCount ep n).taskGaps = s.taskGaps := rfl
@[simp] theorem State.setRxCount_irqGaps (ep : EpNum) (n : Nat) : (s.setRxCount ep n).irqGaps = s.irqGaps := rfl
@[simp] theorem State.setRxCount_params (ep : EpNum) (n : Nat) : (s.setRxCount ep n).params = s.params := rfl
@[simp] theorem State.setRxCount_program (ep : EpNum) (n : Nat) : (s.setRxCount ep n).program = s.program := rfl
@[simp] theorem State.setRxCount_programTail (ep : EpNum) (n : Nat) : (s.setRxCount ep n).programTail = s.programTail := rfl
@[simp] theorem State.setRxCount_taskNext (ep : EpNum) (n : Nat) : (s.setRxCount ep n).taskNext = s.taskNext := rfl
@[simp] theorem State.setRxCount_schedule (ep : EpNum) (n : Nat) : (s.setRxCount ep n).schedule = s.schedule := rfl
@[simp] theorem State.setRxCount_fresh (ep : EpNum) (n : Nat) : (s.setRxCount ep n).fresh = s.fresh := rfl
@[simp] theorem State.setRxCount_resets (ep : EpNum) (n : Nat) : (s.setRxCount ep n).resets = s.resets := rfl

/-! `State.setRxCapacity` -/

@[simp] theorem State.setRxCapacity_epr (ep : EpNum) (n : Nat) : (s.setRxCapacity ep n).epr = s.epr := rfl
@[simp] theorem State.setRxCapacity_pma (ep : EpNum) (n : Nat) : (s.setRxCapacity ep n).pma = s.pma := rfl
@[simp] theorem State.setRxCapacity_rxBuf (ep : EpNum) (n : Nat) : (s.setRxCapacity ep n).rxBuf = s.rxBuf := rfl
@[simp] theorem State.setRxCapacity_rxUnread (ep : EpNum) (n : Nat) : (s.setRxCapacity ep n).rxUnread = s.rxUnread := rfl
@[simp] theorem State.setRxCapacity_rxOffset (ep : EpNum) (n : Nat) : (s.setRxCapacity ep n).rxOffset = s.rxOffset := rfl
@[simp] theorem State.setRxCapacity_txPending (ep : EpNum) (n : Nat) : (s.setRxCapacity ep n).txPending = s.txPending := rfl
@[simp] theorem State.setRxCapacity_resetState (ep : EpNum) (n : Nat) : (s.setRxCapacity ep n).resetState = s.resetState := rfl
@[simp] theorem State.setRxCapacity_ctlDtr (ep : EpNum) (n : Nat) : (s.setRxCapacity ep n).ctlDtr = s.ctlDtr := rfl
@[simp] theorem State.setRxCapacity_ctlRts (ep : EpNum) (n : Nat) : (s.setRxCapacity ep n).ctlRts = s.ctlRts := rfl
@[simp] theorem State.setRxCapacity_irqActive (ep : EpNum) (n : Nat) : (s.setRxCapacity ep n).irqActive = s.irqActive := rfl
@[simp] theorem State.setRxCapacity_setupPending (ep : EpNum) (n : Nat) : (s.setRxCapacity ep n).setupPending = s.setupPending := rfl
@[simp] theorem State.setRxCapacity_wireLog (ep : EpNum) (n : Nat) : (s.setRxCapacity ep n).wireLog = s.wireLog := rfl
@[simp] theorem State.setRxCapacity_fault (ep : EpNum) (n : Nat) : (s.setRxCapacity ep n).fault = s.fault := rfl
@[simp] theorem State.setRxCapacity_refused (ep : EpNum) (n : Nat) : (s.setRxCapacity ep n).refused = s.refused := rfl
@[simp] theorem State.setRxCapacity_refusal (ep : EpNum) (n : Nat) : (s.setRxCapacity ep n).refusal = s.refusal := rfl
@[simp] theorem State.setRxCapacity_taskStopped (ep : EpNum) (n : Nat) : (s.setRxCapacity ep n).taskStopped = s.taskStopped := rfl
@[simp] theorem State.setRxCapacity_irqStopped (ep : EpNum) (n : Nat) : (s.setRxCapacity ep n).irqStopped = s.irqStopped := rfl
@[simp] theorem State.setRxCapacity_wireStopped (ep : EpNum) (n : Nat) : (s.setRxCapacity ep n).wireStopped = s.wireStopped := rfl
@[simp] theorem State.setRxCapacity_taskPort (ep : EpNum) (n : Nat) : (s.setRxCapacity ep n).taskPort = s.taskPort := rfl
@[simp] theorem State.setRxCapacity_irqPort (ep : EpNum) (n : Nat) : (s.setRxCapacity ep n).irqPort = s.irqPort := rfl
@[simp] theorem State.setRxCapacity_wirePort (ep : EpNum) (n : Nat) : (s.setRxCapacity ep n).wirePort = s.wirePort := rfl
@[simp] theorem State.setRxCapacity_issuer (ep : EpNum) (n : Nat) : (s.setRxCapacity ep n).issuer = s.issuer := rfl
@[simp] theorem State.setRxCapacity_inData (ep : EpNum) (n : Nat) : (s.setRxCapacity ep n).inData = s.inData := rfl
@[simp] theorem State.setRxCapacity_taskGaps (ep : EpNum) (n : Nat) : (s.setRxCapacity ep n).taskGaps = s.taskGaps := rfl
@[simp] theorem State.setRxCapacity_irqGaps (ep : EpNum) (n : Nat) : (s.setRxCapacity ep n).irqGaps = s.irqGaps := rfl
@[simp] theorem State.setRxCapacity_params (ep : EpNum) (n : Nat) : (s.setRxCapacity ep n).params = s.params := rfl
@[simp] theorem State.setRxCapacity_program (ep : EpNum) (n : Nat) : (s.setRxCapacity ep n).program = s.program := rfl
@[simp] theorem State.setRxCapacity_programTail (ep : EpNum) (n : Nat) : (s.setRxCapacity ep n).programTail = s.programTail := rfl
@[simp] theorem State.setRxCapacity_taskNext (ep : EpNum) (n : Nat) : (s.setRxCapacity ep n).taskNext = s.taskNext := rfl
@[simp] theorem State.setRxCapacity_schedule (ep : EpNum) (n : Nat) : (s.setRxCapacity ep n).schedule = s.schedule := rfl
@[simp] theorem State.setRxCapacity_fresh (ep : EpNum) (n : Nat) : (s.setRxCapacity ep n).fresh = s.fresh := rfl
@[simp] theorem State.setRxCapacity_resets (ep : EpNum) (n : Nat) : (s.setRxCapacity ep n).resets = s.resets := rfl

/-! `State.log` -/

@[simp] theorem State.log_epr (r : WireRecord) : (s.log r).epr = s.epr := rfl
@[simp] theorem State.log_bdt (r : WireRecord) : (s.log r).bdt = s.bdt := rfl
@[simp] theorem State.log_pma (r : WireRecord) : (s.log r).pma = s.pma := rfl
@[simp] theorem State.log_rxBuf (r : WireRecord) : (s.log r).rxBuf = s.rxBuf := rfl
@[simp] theorem State.log_rxUnread (r : WireRecord) : (s.log r).rxUnread = s.rxUnread := rfl
@[simp] theorem State.log_rxOffset (r : WireRecord) : (s.log r).rxOffset = s.rxOffset := rfl
@[simp] theorem State.log_txPending (r : WireRecord) : (s.log r).txPending = s.txPending := rfl
@[simp] theorem State.log_resetState (r : WireRecord) : (s.log r).resetState = s.resetState := rfl
@[simp] theorem State.log_ctlDtr (r : WireRecord) : (s.log r).ctlDtr = s.ctlDtr := rfl
@[simp] theorem State.log_ctlRts (r : WireRecord) : (s.log r).ctlRts = s.ctlRts := rfl
@[simp] theorem State.log_irqActive (r : WireRecord) : (s.log r).irqActive = s.irqActive := rfl
@[simp] theorem State.log_setupPending (r : WireRecord) : (s.log r).setupPending = s.setupPending := rfl
@[simp] theorem State.log_fault (r : WireRecord) : (s.log r).fault = s.fault := rfl
@[simp] theorem State.log_refused (r : WireRecord) : (s.log r).refused = s.refused := rfl
@[simp] theorem State.log_refusal (r : WireRecord) : (s.log r).refusal = s.refusal := rfl
@[simp] theorem State.log_taskStopped (r : WireRecord) : (s.log r).taskStopped = s.taskStopped := rfl
@[simp] theorem State.log_irqStopped (r : WireRecord) : (s.log r).irqStopped = s.irqStopped := rfl
@[simp] theorem State.log_wireStopped (r : WireRecord) : (s.log r).wireStopped = s.wireStopped := rfl
@[simp] theorem State.log_taskPort (r : WireRecord) : (s.log r).taskPort = s.taskPort := rfl
@[simp] theorem State.log_irqPort (r : WireRecord) : (s.log r).irqPort = s.irqPort := rfl
@[simp] theorem State.log_wirePort (r : WireRecord) : (s.log r).wirePort = s.wirePort := rfl
@[simp] theorem State.log_issuer (r : WireRecord) : (s.log r).issuer = s.issuer := rfl
@[simp] theorem State.log_inData (r : WireRecord) : (s.log r).inData = s.inData := rfl
@[simp] theorem State.log_taskGaps (r : WireRecord) : (s.log r).taskGaps = s.taskGaps := rfl
@[simp] theorem State.log_irqGaps (r : WireRecord) : (s.log r).irqGaps = s.irqGaps := rfl
@[simp] theorem State.log_params (r : WireRecord) : (s.log r).params = s.params := rfl
@[simp] theorem State.log_program (r : WireRecord) : (s.log r).program = s.program := rfl
@[simp] theorem State.log_programTail (r : WireRecord) : (s.log r).programTail = s.programTail := rfl
@[simp] theorem State.log_taskNext (r : WireRecord) : (s.log r).taskNext = s.taskNext := rfl
@[simp] theorem State.log_schedule (r : WireRecord) : (s.log r).schedule = s.schedule := rfl
@[simp] theorem State.log_fresh (r : WireRecord) : (s.log r).fresh = s.fresh := rfl
@[simp] theorem State.log_resets (r : WireRecord) : (s.log r).resets = s.resets := rfl

/-! `State.stop` -/

@[simp] theorem State.stop_epr (who : Agent) : (s.stop who).epr = s.epr := by cases who <;> rfl
@[simp] theorem State.stop_bdt (who : Agent) : (s.stop who).bdt = s.bdt := by cases who <;> rfl
@[simp] theorem State.stop_pma (who : Agent) : (s.stop who).pma = s.pma := by cases who <;> rfl
@[simp] theorem State.stop_rxBuf (who : Agent) : (s.stop who).rxBuf = s.rxBuf := by cases who <;> rfl
@[simp] theorem State.stop_rxUnread (who : Agent) : (s.stop who).rxUnread = s.rxUnread := by cases who <;> rfl
@[simp] theorem State.stop_rxOffset (who : Agent) : (s.stop who).rxOffset = s.rxOffset := by cases who <;> rfl
@[simp] theorem State.stop_txPending (who : Agent) : (s.stop who).txPending = s.txPending := by cases who <;> rfl
@[simp] theorem State.stop_resetState (who : Agent) : (s.stop who).resetState = s.resetState := by cases who <;> rfl
@[simp] theorem State.stop_ctlDtr (who : Agent) : (s.stop who).ctlDtr = s.ctlDtr := by cases who <;> rfl
@[simp] theorem State.stop_ctlRts (who : Agent) : (s.stop who).ctlRts = s.ctlRts := by cases who <;> rfl
@[simp] theorem State.stop_irqActive (who : Agent) : (s.stop who).irqActive = s.irqActive := by cases who <;> rfl
@[simp] theorem State.stop_setupPending (who : Agent) : (s.stop who).setupPending = s.setupPending := by cases who <;> rfl
@[simp] theorem State.stop_wireLog (who : Agent) : (s.stop who).wireLog = s.wireLog := by cases who <;> rfl
@[simp] theorem State.stop_fault (who : Agent) : (s.stop who).fault = s.fault := by cases who <;> rfl
@[simp] theorem State.stop_refused (who : Agent) : (s.stop who).refused = s.refused := by cases who <;> rfl
@[simp] theorem State.stop_refusal (who : Agent) : (s.stop who).refusal = s.refusal := by cases who <;> rfl
@[simp] theorem State.stop_taskPort (who : Agent) : (s.stop who).taskPort = s.taskPort := by cases who <;> rfl
@[simp] theorem State.stop_irqPort (who : Agent) : (s.stop who).irqPort = s.irqPort := by cases who <;> rfl
@[simp] theorem State.stop_wirePort (who : Agent) : (s.stop who).wirePort = s.wirePort := by cases who <;> rfl
@[simp] theorem State.stop_issuer (who : Agent) : (s.stop who).issuer = s.issuer := by cases who <;> rfl
@[simp] theorem State.stop_inData (who : Agent) : (s.stop who).inData = s.inData := by cases who <;> rfl
@[simp] theorem State.stop_taskGaps (who : Agent) : (s.stop who).taskGaps = s.taskGaps := by cases who <;> rfl
@[simp] theorem State.stop_irqGaps (who : Agent) : (s.stop who).irqGaps = s.irqGaps := by cases who <;> rfl
@[simp] theorem State.stop_params (who : Agent) : (s.stop who).params = s.params := by cases who <;> rfl
@[simp] theorem State.stop_program (who : Agent) : (s.stop who).program = s.program := by cases who <;> rfl
@[simp] theorem State.stop_programTail (who : Agent) : (s.stop who).programTail = s.programTail := by cases who <;> rfl
@[simp] theorem State.stop_taskNext (who : Agent) : (s.stop who).taskNext = s.taskNext := by cases who <;> rfl
@[simp] theorem State.stop_schedule (who : Agent) : (s.stop who).schedule = s.schedule := by cases who <;> rfl
@[simp] theorem State.stop_fresh (who : Agent) : (s.stop who).fresh = s.fresh := by cases who <;> rfl
@[simp] theorem State.stop_resets (who : Agent) : (s.stop who).resets = s.resets := by cases who <;> rfl

/-! `State.raise` -/

@[simp] theorem State.raise_epr (who : Agent) (f : FaultInfo) : (s.raise who f).epr = s.epr := by cases who <;> rfl
@[simp] theorem State.raise_bdt (who : Agent) (f : FaultInfo) : (s.raise who f).bdt = s.bdt := by cases who <;> rfl
@[simp] theorem State.raise_pma (who : Agent) (f : FaultInfo) : (s.raise who f).pma = s.pma := by cases who <;> rfl
@[simp] theorem State.raise_rxBuf (who : Agent) (f : FaultInfo) : (s.raise who f).rxBuf = s.rxBuf := by cases who <;> rfl
@[simp] theorem State.raise_rxUnread (who : Agent) (f : FaultInfo) : (s.raise who f).rxUnread = s.rxUnread := by cases who <;> rfl
@[simp] theorem State.raise_rxOffset (who : Agent) (f : FaultInfo) : (s.raise who f).rxOffset = s.rxOffset := by cases who <;> rfl
@[simp] theorem State.raise_txPending (who : Agent) (f : FaultInfo) : (s.raise who f).txPending = s.txPending := by cases who <;> rfl
@[simp] theorem State.raise_resetState (who : Agent) (f : FaultInfo) : (s.raise who f).resetState = s.resetState := by cases who <;> rfl
@[simp] theorem State.raise_ctlDtr (who : Agent) (f : FaultInfo) : (s.raise who f).ctlDtr = s.ctlDtr := by cases who <;> rfl
@[simp] theorem State.raise_ctlRts (who : Agent) (f : FaultInfo) : (s.raise who f).ctlRts = s.ctlRts := by cases who <;> rfl
@[simp] theorem State.raise_irqActive (who : Agent) (f : FaultInfo) : (s.raise who f).irqActive = s.irqActive := by cases who <;> rfl
@[simp] theorem State.raise_setupPending (who : Agent) (f : FaultInfo) : (s.raise who f).setupPending = s.setupPending := by cases who <;> rfl
@[simp] theorem State.raise_wireLog (who : Agent) (f : FaultInfo) : (s.raise who f).wireLog = s.wireLog := by cases who <;> rfl
@[simp] theorem State.raise_refused (who : Agent) (f : FaultInfo) : (s.raise who f).refused = s.refused := by cases who <;> rfl
@[simp] theorem State.raise_refusal (who : Agent) (f : FaultInfo) : (s.raise who f).refusal = s.refusal := by cases who <;> rfl
@[simp] theorem State.raise_taskPort (who : Agent) (f : FaultInfo) : (s.raise who f).taskPort = s.taskPort := by cases who <;> rfl
@[simp] theorem State.raise_irqPort (who : Agent) (f : FaultInfo) : (s.raise who f).irqPort = s.irqPort := by cases who <;> rfl
@[simp] theorem State.raise_wirePort (who : Agent) (f : FaultInfo) : (s.raise who f).wirePort = s.wirePort := by cases who <;> rfl
@[simp] theorem State.raise_issuer (who : Agent) (f : FaultInfo) : (s.raise who f).issuer = s.issuer := by cases who <;> rfl
@[simp] theorem State.raise_inData (who : Agent) (f : FaultInfo) : (s.raise who f).inData = s.inData := by cases who <;> rfl
@[simp] theorem State.raise_taskGaps (who : Agent) (f : FaultInfo) : (s.raise who f).taskGaps = s.taskGaps := by cases who <;> rfl
@[simp] theorem State.raise_irqGaps (who : Agent) (f : FaultInfo) : (s.raise who f).irqGaps = s.irqGaps := by cases who <;> rfl
@[simp] theorem State.raise_params (who : Agent) (f : FaultInfo) : (s.raise who f).params = s.params := by cases who <;> rfl
@[simp] theorem State.raise_program (who : Agent) (f : FaultInfo) : (s.raise who f).program = s.program := by cases who <;> rfl
@[simp] theorem State.raise_programTail (who : Agent) (f : FaultInfo) : (s.raise who f).programTail = s.programTail := by cases who <;> rfl
@[simp] theorem State.raise_taskNext (who : Agent) (f : FaultInfo) : (s.raise who f).taskNext = s.taskNext := by cases who <;> rfl
@[simp] theorem State.raise_schedule (who : Agent) (f : FaultInfo) : (s.raise who f).schedule = s.schedule := by cases who <;> rfl
@[simp] theorem State.raise_fresh (who : Agent) (f : FaultInfo) : (s.raise who f).fresh = s.fresh := by cases who <;> rfl
@[simp] theorem State.raise_resets (who : Agent) (f : FaultInfo) : (s.raise who f).resets = s.resets := by cases who <;> rfl

/-! `State.refuse` -/

@[simp] theorem State.refuse_epr (who : Agent) (r : RefusalInfo) : (s.refuse who r).epr = s.epr := by cases who <;> rfl
@[simp] theorem State.refuse_bdt (who : Agent) (r : RefusalInfo) : (s.refuse who r).bdt = s.bdt := by cases who <;> rfl
@[simp] theorem State.refuse_pma (who : Agent) (r : RefusalInfo) : (s.refuse who r).pma = s.pma := by cases who <;> rfl
@[simp] theorem State.refuse_rxBuf (who : Agent) (r : RefusalInfo) : (s.refuse who r).rxBuf = s.rxBuf := by cases who <;> rfl
@[simp] theorem State.refuse_rxUnread (who : Agent) (r : RefusalInfo) : (s.refuse who r).rxUnread = s.rxUnread := by cases who <;> rfl
@[simp] theorem State.refuse_rxOffset (who : Agent) (r : RefusalInfo) : (s.refuse who r).rxOffset = s.rxOffset := by cases who <;> rfl
@[simp] theorem State.refuse_txPending (who : Agent) (r : RefusalInfo) : (s.refuse who r).txPending = s.txPending := by cases who <;> rfl
@[simp] theorem State.refuse_resetState (who : Agent) (r : RefusalInfo) : (s.refuse who r).resetState = s.resetState := by cases who <;> rfl
@[simp] theorem State.refuse_ctlDtr (who : Agent) (r : RefusalInfo) : (s.refuse who r).ctlDtr = s.ctlDtr := by cases who <;> rfl
@[simp] theorem State.refuse_ctlRts (who : Agent) (r : RefusalInfo) : (s.refuse who r).ctlRts = s.ctlRts := by cases who <;> rfl
@[simp] theorem State.refuse_irqActive (who : Agent) (r : RefusalInfo) : (s.refuse who r).irqActive = s.irqActive := by cases who <;> rfl
@[simp] theorem State.refuse_setupPending (who : Agent) (r : RefusalInfo) : (s.refuse who r).setupPending = s.setupPending := by cases who <;> rfl
@[simp] theorem State.refuse_wireLog (who : Agent) (r : RefusalInfo) : (s.refuse who r).wireLog = s.wireLog := by cases who <;> rfl
@[simp] theorem State.refuse_fault (who : Agent) (r : RefusalInfo) : (s.refuse who r).fault = s.fault := by cases who <;> rfl
@[simp] theorem State.refuse_taskPort (who : Agent) (r : RefusalInfo) : (s.refuse who r).taskPort = s.taskPort := by cases who <;> rfl
@[simp] theorem State.refuse_irqPort (who : Agent) (r : RefusalInfo) : (s.refuse who r).irqPort = s.irqPort := by cases who <;> rfl
@[simp] theorem State.refuse_wirePort (who : Agent) (r : RefusalInfo) : (s.refuse who r).wirePort = s.wirePort := by cases who <;> rfl
@[simp] theorem State.refuse_issuer (who : Agent) (r : RefusalInfo) : (s.refuse who r).issuer = s.issuer := by cases who <;> rfl
@[simp] theorem State.refuse_inData (who : Agent) (r : RefusalInfo) : (s.refuse who r).inData = s.inData := by cases who <;> rfl
@[simp] theorem State.refuse_taskGaps (who : Agent) (r : RefusalInfo) : (s.refuse who r).taskGaps = s.taskGaps := by cases who <;> rfl
@[simp] theorem State.refuse_irqGaps (who : Agent) (r : RefusalInfo) : (s.refuse who r).irqGaps = s.irqGaps := by cases who <;> rfl
@[simp] theorem State.refuse_params (who : Agent) (r : RefusalInfo) : (s.refuse who r).params = s.params := by cases who <;> rfl
@[simp] theorem State.refuse_program (who : Agent) (r : RefusalInfo) : (s.refuse who r).program = s.program := by cases who <;> rfl
@[simp] theorem State.refuse_programTail (who : Agent) (r : RefusalInfo) : (s.refuse who r).programTail = s.programTail := by cases who <;> rfl
@[simp] theorem State.refuse_taskNext (who : Agent) (r : RefusalInfo) : (s.refuse who r).taskNext = s.taskNext := by cases who <;> rfl
@[simp] theorem State.refuse_schedule (who : Agent) (r : RefusalInfo) : (s.refuse who r).schedule = s.schedule := by cases who <;> rfl
@[simp] theorem State.refuse_fresh (who : Agent) (r : RefusalInfo) : (s.refuse who r).fresh = s.fresh := by cases who <;> rfl
@[simp] theorem State.refuse_resets (who : Agent) (r : RefusalInfo) : (s.refuse who r).resets = s.resets := by cases who <;> rfl

/-! `State.setPort` -/

@[simp] theorem State.setPort_epr (who : Agent) (p : Port) : (s.setPort who p).epr = s.epr := by cases who <;> rfl
@[simp] theorem State.setPort_bdt (who : Agent) (p : Port) : (s.setPort who p).bdt = s.bdt := by cases who <;> rfl
@[simp] theorem State.setPort_pma (who : Agent) (p : Port) : (s.setPort who p).pma = s.pma := by cases who <;> rfl
@[simp] theorem State.setPort_rxBuf (who : Agent) (p : Port) : (s.setPort who p).rxBuf = s.rxBuf := by cases who <;> rfl
@[simp] theorem State.setPort_rxUnread (who : Agent) (p : Port) : (s.setPort who p).rxUnread = s.rxUnread := by cases who <;> rfl
@[simp] theorem State.setPort_rxOffset (who : Agent) (p : Port) : (s.setPort who p).rxOffset = s.rxOffset := by cases who <;> rfl
@[simp] theorem State.setPort_txPending (who : Agent) (p : Port) : (s.setPort who p).txPending = s.txPending := by cases who <;> rfl
@[simp] theorem State.setPort_resetState (who : Agent) (p : Port) : (s.setPort who p).resetState = s.resetState := by cases who <;> rfl
@[simp] theorem State.setPort_ctlDtr (who : Agent) (p : Port) : (s.setPort who p).ctlDtr = s.ctlDtr := by cases who <;> rfl
@[simp] theorem State.setPort_ctlRts (who : Agent) (p : Port) : (s.setPort who p).ctlRts = s.ctlRts := by cases who <;> rfl
@[simp] theorem State.setPort_irqActive (who : Agent) (p : Port) : (s.setPort who p).irqActive = s.irqActive := by cases who <;> rfl
@[simp] theorem State.setPort_setupPending (who : Agent) (p : Port) : (s.setPort who p).setupPending = s.setupPending := by cases who <;> rfl
@[simp] theorem State.setPort_wireLog (who : Agent) (p : Port) : (s.setPort who p).wireLog = s.wireLog := by cases who <;> rfl
@[simp] theorem State.setPort_fault (who : Agent) (p : Port) : (s.setPort who p).fault = s.fault := by cases who <;> rfl
@[simp] theorem State.setPort_refused (who : Agent) (p : Port) : (s.setPort who p).refused = s.refused := by cases who <;> rfl
@[simp] theorem State.setPort_refusal (who : Agent) (p : Port) : (s.setPort who p).refusal = s.refusal := by cases who <;> rfl
@[simp] theorem State.setPort_taskStopped (who : Agent) (p : Port) : (s.setPort who p).taskStopped = s.taskStopped := by cases who <;> rfl
@[simp] theorem State.setPort_irqStopped (who : Agent) (p : Port) : (s.setPort who p).irqStopped = s.irqStopped := by cases who <;> rfl
@[simp] theorem State.setPort_wireStopped (who : Agent) (p : Port) : (s.setPort who p).wireStopped = s.wireStopped := by cases who <;> rfl
@[simp] theorem State.setPort_issuer (who : Agent) (p : Port) : (s.setPort who p).issuer = s.issuer := by cases who <;> rfl
@[simp] theorem State.setPort_inData (who : Agent) (p : Port) : (s.setPort who p).inData = s.inData := by cases who <;> rfl
@[simp] theorem State.setPort_taskGaps (who : Agent) (p : Port) : (s.setPort who p).taskGaps = s.taskGaps := by cases who <;> rfl
@[simp] theorem State.setPort_irqGaps (who : Agent) (p : Port) : (s.setPort who p).irqGaps = s.irqGaps := by cases who <;> rfl
@[simp] theorem State.setPort_params (who : Agent) (p : Port) : (s.setPort who p).params = s.params := by cases who <;> rfl
@[simp] theorem State.setPort_program (who : Agent) (p : Port) : (s.setPort who p).program = s.program := by cases who <;> rfl
@[simp] theorem State.setPort_programTail (who : Agent) (p : Port) : (s.setPort who p).programTail = s.programTail := by cases who <;> rfl
@[simp] theorem State.setPort_taskNext (who : Agent) (p : Port) : (s.setPort who p).taskNext = s.taskNext := by cases who <;> rfl
@[simp] theorem State.setPort_schedule (who : Agent) (p : Port) : (s.setPort who p).schedule = s.schedule := by cases who <;> rfl
@[simp] theorem State.setPort_fresh (who : Agent) (p : Port) : (s.setPort who p).fresh = s.fresh := by cases who <;> rfl
@[simp] theorem State.setPort_resets (who : Agent) (p : Port) : (s.setPort who p).resets = s.resets := by cases who <;> rfl

/-! `State.clearPort` -/

@[simp] theorem State.clearPort_epr (who : Agent) : (s.clearPort who).epr = s.epr := by cases who <;> rfl
@[simp] theorem State.clearPort_bdt (who : Agent) : (s.clearPort who).bdt = s.bdt := by cases who <;> rfl
@[simp] theorem State.clearPort_pma (who : Agent) : (s.clearPort who).pma = s.pma := by cases who <;> rfl
@[simp] theorem State.clearPort_rxBuf (who : Agent) : (s.clearPort who).rxBuf = s.rxBuf := by cases who <;> rfl
@[simp] theorem State.clearPort_rxUnread (who : Agent) : (s.clearPort who).rxUnread = s.rxUnread := by cases who <;> rfl
@[simp] theorem State.clearPort_rxOffset (who : Agent) : (s.clearPort who).rxOffset = s.rxOffset := by cases who <;> rfl
@[simp] theorem State.clearPort_txPending (who : Agent) : (s.clearPort who).txPending = s.txPending := by cases who <;> rfl
@[simp] theorem State.clearPort_resetState (who : Agent) : (s.clearPort who).resetState = s.resetState := by cases who <;> rfl
@[simp] theorem State.clearPort_ctlDtr (who : Agent) : (s.clearPort who).ctlDtr = s.ctlDtr := by cases who <;> rfl
@[simp] theorem State.clearPort_ctlRts (who : Agent) : (s.clearPort who).ctlRts = s.ctlRts := by cases who <;> rfl
@[simp] theorem State.clearPort_irqActive (who : Agent) : (s.clearPort who).irqActive = s.irqActive := by cases who <;> rfl
@[simp] theorem State.clearPort_setupPending (who : Agent) : (s.clearPort who).setupPending = s.setupPending := by cases who <;> rfl
@[simp] theorem State.clearPort_wireLog (who : Agent) : (s.clearPort who).wireLog = s.wireLog := by cases who <;> rfl
@[simp] theorem State.clearPort_fault (who : Agent) : (s.clearPort who).fault = s.fault := by cases who <;> rfl
@[simp] theorem State.clearPort_refused (who : Agent) : (s.clearPort who).refused = s.refused := by cases who <;> rfl
@[simp] theorem State.clearPort_refusal (who : Agent) : (s.clearPort who).refusal = s.refusal := by cases who <;> rfl
@[simp] theorem State.clearPort_taskStopped (who : Agent) : (s.clearPort who).taskStopped = s.taskStopped := by cases who <;> rfl
@[simp] theorem State.clearPort_irqStopped (who : Agent) : (s.clearPort who).irqStopped = s.irqStopped := by cases who <;> rfl
@[simp] theorem State.clearPort_wireStopped (who : Agent) : (s.clearPort who).wireStopped = s.wireStopped := by cases who <;> rfl
@[simp] theorem State.clearPort_issuer (who : Agent) : (s.clearPort who).issuer = s.issuer := by cases who <;> rfl
@[simp] theorem State.clearPort_inData (who : Agent) : (s.clearPort who).inData = s.inData := by cases who <;> rfl
@[simp] theorem State.clearPort_taskGaps (who : Agent) : (s.clearPort who).taskGaps = s.taskGaps := by cases who <;> rfl
@[simp] theorem State.clearPort_irqGaps (who : Agent) : (s.clearPort who).irqGaps = s.irqGaps := by cases who <;> rfl
@[simp] theorem State.clearPort_params (who : Agent) : (s.clearPort who).params = s.params := by cases who <;> rfl
@[simp] theorem State.clearPort_program (who : Agent) : (s.clearPort who).program = s.program := by cases who <;> rfl
@[simp] theorem State.clearPort_programTail (who : Agent) : (s.clearPort who).programTail = s.programTail := by cases who <;> rfl
@[simp] theorem State.clearPort_taskNext (who : Agent) : (s.clearPort who).taskNext = s.taskNext := by cases who <;> rfl
@[simp] theorem State.clearPort_schedule (who : Agent) : (s.clearPort who).schedule = s.schedule := by cases who <;> rfl
@[simp] theorem State.clearPort_fresh (who : Agent) : (s.clearPort who).fresh = s.fresh := by cases who <;> rfl
@[simp] theorem State.clearPort_resets (who : Agent) : (s.clearPort who).resets = s.resets := by cases who <;> rfl

/-! `State.ret` -/

@[simp] theorem State.ret_epr (who : Agent) (r : Result) : (s.ret who r).epr = s.epr := by cases who <;> rfl
@[simp] theorem State.ret_bdt (who : Agent) (r : Result) : (s.ret who r).bdt = s.bdt := by cases who <;> rfl
@[simp] theorem State.ret_pma (who : Agent) (r : Result) : (s.ret who r).pma = s.pma := by cases who <;> rfl
@[simp] theorem State.ret_rxBuf (who : Agent) (r : Result) : (s.ret who r).rxBuf = s.rxBuf := by cases who <;> rfl
@[simp] theorem State.ret_rxUnread (who : Agent) (r : Result) : (s.ret who r).rxUnread = s.rxUnread := by cases who <;> rfl
@[simp] theorem State.ret_rxOffset (who : Agent) (r : Result) : (s.ret who r).rxOffset = s.rxOffset := by cases who <;> rfl
@[simp] theorem State.ret_txPending (who : Agent) (r : Result) : (s.ret who r).txPending = s.txPending := by cases who <;> rfl
@[simp] theorem State.ret_resetState (who : Agent) (r : Result) : (s.ret who r).resetState = s.resetState := by cases who <;> rfl
@[simp] theorem State.ret_ctlDtr (who : Agent) (r : Result) : (s.ret who r).ctlDtr = s.ctlDtr := by cases who <;> rfl
@[simp] theorem State.ret_ctlRts (who : Agent) (r : Result) : (s.ret who r).ctlRts = s.ctlRts := by cases who <;> rfl
@[simp] theorem State.ret_irqActive (who : Agent) (r : Result) : (s.ret who r).irqActive = s.irqActive := by cases who <;> rfl
@[simp] theorem State.ret_setupPending (who : Agent) (r : Result) : (s.ret who r).setupPending = s.setupPending := by cases who <;> rfl
@[simp] theorem State.ret_wireLog (who : Agent) (r : Result) : (s.ret who r).wireLog = s.wireLog := by cases who <;> rfl
@[simp] theorem State.ret_fault (who : Agent) (r : Result) : (s.ret who r).fault = s.fault := by cases who <;> rfl
@[simp] theorem State.ret_refused (who : Agent) (r : Result) : (s.ret who r).refused = s.refused := by cases who <;> rfl
@[simp] theorem State.ret_refusal (who : Agent) (r : Result) : (s.ret who r).refusal = s.refusal := by cases who <;> rfl
@[simp] theorem State.ret_taskStopped (who : Agent) (r : Result) : (s.ret who r).taskStopped = s.taskStopped := by cases who <;> rfl
@[simp] theorem State.ret_irqStopped (who : Agent) (r : Result) : (s.ret who r).irqStopped = s.irqStopped := by cases who <;> rfl
@[simp] theorem State.ret_wireStopped (who : Agent) (r : Result) : (s.ret who r).wireStopped = s.wireStopped := by cases who <;> rfl
@[simp] theorem State.ret_issuer (who : Agent) (r : Result) : (s.ret who r).issuer = s.issuer := by cases who <;> rfl
@[simp] theorem State.ret_inData (who : Agent) (r : Result) : (s.ret who r).inData = s.inData := by cases who <;> rfl
@[simp] theorem State.ret_taskGaps (who : Agent) (r : Result) : (s.ret who r).taskGaps = s.taskGaps := by cases who <;> rfl
@[simp] theorem State.ret_irqGaps (who : Agent) (r : Result) : (s.ret who r).irqGaps = s.irqGaps := by cases who <;> rfl
@[simp] theorem State.ret_params (who : Agent) (r : Result) : (s.ret who r).params = s.params := by cases who <;> rfl
@[simp] theorem State.ret_program (who : Agent) (r : Result) : (s.ret who r).program = s.program := by cases who <;> rfl
@[simp] theorem State.ret_programTail (who : Agent) (r : Result) : (s.ret who r).programTail = s.programTail := by cases who <;> rfl
@[simp] theorem State.ret_taskNext (who : Agent) (r : Result) : (s.ret who r).taskNext = s.taskNext := by cases who <;> rfl
@[simp] theorem State.ret_schedule (who : Agent) (r : Result) : (s.ret who r).schedule = s.schedule := by cases who <;> rfl
@[simp] theorem State.ret_fresh (who : Agent) (r : Result) : (s.ret who r).fresh = s.fresh := by cases who <;> rfl
@[simp] theorem State.ret_resets (who : Agent) (r : Result) : (s.ret who r).resets = s.resets := by cases who <;> rfl

/-! `State.outData` -/

@[simp] theorem State.outData_epr (who : Agent) (bytes : List Byte) : (s.outData who bytes).epr = s.epr := by cases who <;> rfl
@[simp] theorem State.outData_bdt (who : Agent) (bytes : List Byte) : (s.outData who bytes).bdt = s.bdt := by cases who <;> rfl
@[simp] theorem State.outData_pma (who : Agent) (bytes : List Byte) : (s.outData who bytes).pma = s.pma := by cases who <;> rfl
@[simp] theorem State.outData_rxBuf (who : Agent) (bytes : List Byte) : (s.outData who bytes).rxBuf = s.rxBuf := by cases who <;> rfl
@[simp] theorem State.outData_rxUnread (who : Agent) (bytes : List Byte) : (s.outData who bytes).rxUnread = s.rxUnread := by cases who <;> rfl
@[simp] theorem State.outData_rxOffset (who : Agent) (bytes : List Byte) : (s.outData who bytes).rxOffset = s.rxOffset := by cases who <;> rfl
@[simp] theorem State.outData_txPending (who : Agent) (bytes : List Byte) : (s.outData who bytes).txPending = s.txPending := by cases who <;> rfl
@[simp] theorem State.outData_resetState (who : Agent) (bytes : List Byte) : (s.outData who bytes).resetState = s.resetState := by cases who <;> rfl
@[simp] theorem State.outData_ctlDtr (who : Agent) (bytes : List Byte) : (s.outData who bytes).ctlDtr = s.ctlDtr := by cases who <;> rfl
@[simp] theorem State.outData_ctlRts (who : Agent) (bytes : List Byte) : (s.outData who bytes).ctlRts = s.ctlRts := by cases who <;> rfl
@[simp] theorem State.outData_irqActive (who : Agent) (bytes : List Byte) : (s.outData who bytes).irqActive = s.irqActive := by cases who <;> rfl
@[simp] theorem State.outData_setupPending (who : Agent) (bytes : List Byte) : (s.outData who bytes).setupPending = s.setupPending := by cases who <;> rfl
@[simp] theorem State.outData_wireLog (who : Agent) (bytes : List Byte) : (s.outData who bytes).wireLog = s.wireLog := by cases who <;> rfl
@[simp] theorem State.outData_fault (who : Agent) (bytes : List Byte) : (s.outData who bytes).fault = s.fault := by cases who <;> rfl
@[simp] theorem State.outData_refused (who : Agent) (bytes : List Byte) : (s.outData who bytes).refused = s.refused := by cases who <;> rfl
@[simp] theorem State.outData_refusal (who : Agent) (bytes : List Byte) : (s.outData who bytes).refusal = s.refusal := by cases who <;> rfl
@[simp] theorem State.outData_taskStopped (who : Agent) (bytes : List Byte) : (s.outData who bytes).taskStopped = s.taskStopped := by cases who <;> rfl
@[simp] theorem State.outData_irqStopped (who : Agent) (bytes : List Byte) : (s.outData who bytes).irqStopped = s.irqStopped := by cases who <;> rfl
@[simp] theorem State.outData_wireStopped (who : Agent) (bytes : List Byte) : (s.outData who bytes).wireStopped = s.wireStopped := by cases who <;> rfl
@[simp] theorem State.outData_issuer (who : Agent) (bytes : List Byte) : (s.outData who bytes).issuer = s.issuer := by cases who <;> rfl
@[simp] theorem State.outData_inData (who : Agent) (bytes : List Byte) : (s.outData who bytes).inData = s.inData := by cases who <;> rfl
@[simp] theorem State.outData_taskGaps (who : Agent) (bytes : List Byte) : (s.outData who bytes).taskGaps = s.taskGaps := by cases who <;> rfl
@[simp] theorem State.outData_irqGaps (who : Agent) (bytes : List Byte) : (s.outData who bytes).irqGaps = s.irqGaps := by cases who <;> rfl
@[simp] theorem State.outData_params (who : Agent) (bytes : List Byte) : (s.outData who bytes).params = s.params := by cases who <;> rfl
@[simp] theorem State.outData_program (who : Agent) (bytes : List Byte) : (s.outData who bytes).program = s.program := by cases who <;> rfl
@[simp] theorem State.outData_programTail (who : Agent) (bytes : List Byte) : (s.outData who bytes).programTail = s.programTail := by cases who <;> rfl
@[simp] theorem State.outData_taskNext (who : Agent) (bytes : List Byte) : (s.outData who bytes).taskNext = s.taskNext := by cases who <;> rfl
@[simp] theorem State.outData_schedule (who : Agent) (bytes : List Byte) : (s.outData who bytes).schedule = s.schedule := by cases who <;> rfl
@[simp] theorem State.outData_fresh (who : Agent) (bytes : List Byte) : (s.outData who bytes).fresh = s.fresh := by cases who <;> rfl
@[simp] theorem State.outData_resets (who : Agent) (bytes : List Byte) : (s.outData who bytes).resets = s.resets := by cases who <;> rfl

/-! `State.enterHandler` -/

@[simp] theorem State.enterHandler_epr : (s.enterHandler).epr = s.epr := rfl
@[simp] theorem State.enterHandler_bdt : (s.enterHandler).bdt = s.bdt := rfl
@[simp] theorem State.enterHandler_pma : (s.enterHandler).pma = s.pma := rfl
@[simp] theorem State.enterHandler_rxBuf : (s.enterHandler).rxBuf = s.rxBuf := rfl
@[simp] theorem State.enterHandler_rxUnread : (s.enterHandler).rxUnread = s.rxUnread := rfl
@[simp] theorem State.enterHandler_rxOffset : (s.enterHandler).rxOffset = s.rxOffset := rfl
@[simp] theorem State.enterHandler_txPending : (s.enterHandler).txPending = s.txPending := rfl
@[simp] theorem State.enterHandler_resetState : (s.enterHandler).resetState = s.resetState := rfl
@[simp] theorem State.enterHandler_ctlDtr : (s.enterHandler).ctlDtr = s.ctlDtr := rfl
@[simp] theorem State.enterHandler_ctlRts : (s.enterHandler).ctlRts = s.ctlRts := rfl
@[simp] theorem State.enterHandler_setupPending : (s.enterHandler).setupPending = s.setupPending := rfl
@[simp] theorem State.enterHandler_wireLog : (s.enterHandler).wireLog = s.wireLog := rfl
@[simp] theorem State.enterHandler_fault : (s.enterHandler).fault = s.fault := rfl
@[simp] theorem State.enterHandler_refused : (s.enterHandler).refused = s.refused := rfl
@[simp] theorem State.enterHandler_refusal : (s.enterHandler).refusal = s.refusal := rfl
@[simp] theorem State.enterHandler_taskStopped : (s.enterHandler).taskStopped = s.taskStopped := rfl
@[simp] theorem State.enterHandler_irqStopped : (s.enterHandler).irqStopped = s.irqStopped := rfl
@[simp] theorem State.enterHandler_wireStopped : (s.enterHandler).wireStopped = s.wireStopped := rfl
@[simp] theorem State.enterHandler_taskPort : (s.enterHandler).taskPort = s.taskPort := rfl
@[simp] theorem State.enterHandler_irqPort : (s.enterHandler).irqPort = s.irqPort := rfl
@[simp] theorem State.enterHandler_wirePort : (s.enterHandler).wirePort = s.wirePort := rfl
@[simp] theorem State.enterHandler_issuer : (s.enterHandler).issuer = s.issuer := rfl
@[simp] theorem State.enterHandler_inData : (s.enterHandler).inData = s.inData := rfl
@[simp] theorem State.enterHandler_taskGaps : (s.enterHandler).taskGaps = s.taskGaps := rfl
@[simp] theorem State.enterHandler_irqGaps : (s.enterHandler).irqGaps = s.irqGaps := rfl
@[simp] theorem State.enterHandler_params : (s.enterHandler).params = s.params := rfl
@[simp] theorem State.enterHandler_program : (s.enterHandler).program = s.program := rfl
@[simp] theorem State.enterHandler_programTail : (s.enterHandler).programTail = s.programTail := rfl
@[simp] theorem State.enterHandler_taskNext : (s.enterHandler).taskNext = s.taskNext := rfl
@[simp] theorem State.enterHandler_schedule : (s.enterHandler).schedule = s.schedule := rfl
@[simp] theorem State.enterHandler_fresh : (s.enterHandler).fresh = s.fresh := rfl
@[simp] theorem State.enterHandler_resets : (s.enterHandler).resets = s.resets := rfl

/-! `State.leaveHandler` -/

@[simp] theorem State.leaveHandler_epr : (s.leaveHandler).epr = s.epr := rfl
@[simp] theorem State.leaveHandler_bdt : (s.leaveHandler).bdt = s.bdt := rfl
@[simp] theorem State.leaveHandler_pma : (s.leaveHandler).pma = s.pma := rfl
@[simp] theorem State.leaveHandler_rxBuf : (s.leaveHandler).rxBuf = s.rxBuf := rfl
@[simp] theorem State.leaveHandler_rxUnread : (s.leaveHandler).rxUnread = s.rxUnread := rfl
@[simp] theorem State.leaveHandler_rxOffset : (s.leaveHandler).rxOffset = s.rxOffset := rfl
@[simp] theorem State.leaveHandler_txPending : (s.leaveHandler).txPending = s.txPending := rfl
@[simp] theorem State.leaveHandler_resetState : (s.leaveHandler).resetState = s.resetState := rfl
@[simp] theorem State.leaveHandler_ctlDtr : (s.leaveHandler).ctlDtr = s.ctlDtr := rfl
@[simp] theorem State.leaveHandler_ctlRts : (s.leaveHandler).ctlRts = s.ctlRts := rfl
@[simp] theorem State.leaveHandler_setupPending : (s.leaveHandler).setupPending = s.setupPending := rfl
@[simp] theorem State.leaveHandler_wireLog : (s.leaveHandler).wireLog = s.wireLog := rfl
@[simp] theorem State.leaveHandler_fault : (s.leaveHandler).fault = s.fault := rfl
@[simp] theorem State.leaveHandler_refused : (s.leaveHandler).refused = s.refused := rfl
@[simp] theorem State.leaveHandler_refusal : (s.leaveHandler).refusal = s.refusal := rfl
@[simp] theorem State.leaveHandler_taskStopped : (s.leaveHandler).taskStopped = s.taskStopped := rfl
@[simp] theorem State.leaveHandler_irqStopped : (s.leaveHandler).irqStopped = s.irqStopped := rfl
@[simp] theorem State.leaveHandler_wireStopped : (s.leaveHandler).wireStopped = s.wireStopped := rfl
@[simp] theorem State.leaveHandler_taskPort : (s.leaveHandler).taskPort = s.taskPort := rfl
@[simp] theorem State.leaveHandler_irqPort : (s.leaveHandler).irqPort = s.irqPort := rfl
@[simp] theorem State.leaveHandler_wirePort : (s.leaveHandler).wirePort = s.wirePort := rfl
@[simp] theorem State.leaveHandler_issuer : (s.leaveHandler).issuer = s.issuer := rfl
@[simp] theorem State.leaveHandler_inData : (s.leaveHandler).inData = s.inData := rfl
@[simp] theorem State.leaveHandler_taskGaps : (s.leaveHandler).taskGaps = s.taskGaps := rfl
@[simp] theorem State.leaveHandler_irqGaps : (s.leaveHandler).irqGaps = s.irqGaps := rfl
@[simp] theorem State.leaveHandler_params : (s.leaveHandler).params = s.params := rfl
@[simp] theorem State.leaveHandler_program : (s.leaveHandler).program = s.program := rfl
@[simp] theorem State.leaveHandler_programTail : (s.leaveHandler).programTail = s.programTail := rfl
@[simp] theorem State.leaveHandler_taskNext : (s.leaveHandler).taskNext = s.taskNext := rfl
@[simp] theorem State.leaveHandler_schedule : (s.leaveHandler).schedule = s.schedule := rfl
@[simp] theorem State.leaveHandler_fresh : (s.leaveHandler).fresh = s.fresh := rfl
@[simp] theorem State.leaveHandler_resets : (s.leaveHandler).resets = s.resets := rfl

/-! `State.dropGaps` -/

@[simp] theorem State.dropGaps_epr : (s.dropGaps).epr = s.epr := rfl
@[simp] theorem State.dropGaps_bdt : (s.dropGaps).bdt = s.bdt := rfl
@[simp] theorem State.dropGaps_pma : (s.dropGaps).pma = s.pma := rfl
@[simp] theorem State.dropGaps_rxBuf : (s.dropGaps).rxBuf = s.rxBuf := rfl
@[simp] theorem State.dropGaps_rxUnread : (s.dropGaps).rxUnread = s.rxUnread := rfl
@[simp] theorem State.dropGaps_rxOffset : (s.dropGaps).rxOffset = s.rxOffset := rfl
@[simp] theorem State.dropGaps_txPending : (s.dropGaps).txPending = s.txPending := rfl
@[simp] theorem State.dropGaps_resetState : (s.dropGaps).resetState = s.resetState := rfl
@[simp] theorem State.dropGaps_ctlDtr : (s.dropGaps).ctlDtr = s.ctlDtr := rfl
@[simp] theorem State.dropGaps_ctlRts : (s.dropGaps).ctlRts = s.ctlRts := rfl
@[simp] theorem State.dropGaps_irqActive : (s.dropGaps).irqActive = s.irqActive := rfl
@[simp] theorem State.dropGaps_setupPending : (s.dropGaps).setupPending = s.setupPending := rfl
@[simp] theorem State.dropGaps_wireLog : (s.dropGaps).wireLog = s.wireLog := rfl
@[simp] theorem State.dropGaps_fault : (s.dropGaps).fault = s.fault := rfl
@[simp] theorem State.dropGaps_refused : (s.dropGaps).refused = s.refused := rfl
@[simp] theorem State.dropGaps_refusal : (s.dropGaps).refusal = s.refusal := rfl
@[simp] theorem State.dropGaps_taskStopped : (s.dropGaps).taskStopped = s.taskStopped := rfl
@[simp] theorem State.dropGaps_irqStopped : (s.dropGaps).irqStopped = s.irqStopped := rfl
@[simp] theorem State.dropGaps_wireStopped : (s.dropGaps).wireStopped = s.wireStopped := rfl
@[simp] theorem State.dropGaps_taskPort : (s.dropGaps).taskPort = s.taskPort := rfl
@[simp] theorem State.dropGaps_irqPort : (s.dropGaps).irqPort = s.irqPort := rfl
@[simp] theorem State.dropGaps_wirePort : (s.dropGaps).wirePort = s.wirePort := rfl
@[simp] theorem State.dropGaps_issuer : (s.dropGaps).issuer = s.issuer := rfl
@[simp] theorem State.dropGaps_inData : (s.dropGaps).inData = s.inData := rfl
@[simp] theorem State.dropGaps_params : (s.dropGaps).params = s.params := rfl
@[simp] theorem State.dropGaps_program : (s.dropGaps).program = s.program := rfl
@[simp] theorem State.dropGaps_programTail : (s.dropGaps).programTail = s.programTail := rfl
@[simp] theorem State.dropGaps_taskNext : (s.dropGaps).taskNext = s.taskNext := rfl
@[simp] theorem State.dropGaps_schedule : (s.dropGaps).schedule = s.schedule := rfl
@[simp] theorem State.dropGaps_fresh : (s.dropGaps).fresh = s.fresh := rfl
@[simp] theorem State.dropGaps_resets : (s.dropGaps).resets = s.resets := rfl

/-! `State.setGaps` -/

@[simp] theorem State.setGaps_epr (tg : List (List Between)) (ig : List (List Quiet)) : (s.setGaps tg ig).epr = s.epr := rfl
@[simp] theorem State.setGaps_bdt (tg : List (List Between)) (ig : List (List Quiet)) : (s.setGaps tg ig).bdt = s.bdt := rfl
@[simp] theorem State.setGaps_pma (tg : List (List Between)) (ig : List (List Quiet)) : (s.setGaps tg ig).pma = s.pma := rfl
@[simp] theorem State.setGaps_rxBuf (tg : List (List Between)) (ig : List (List Quiet)) : (s.setGaps tg ig).rxBuf = s.rxBuf := rfl
@[simp] theorem State.setGaps_rxUnread (tg : List (List Between)) (ig : List (List Quiet)) : (s.setGaps tg ig).rxUnread = s.rxUnread := rfl
@[simp] theorem State.setGaps_rxOffset (tg : List (List Between)) (ig : List (List Quiet)) : (s.setGaps tg ig).rxOffset = s.rxOffset := rfl
@[simp] theorem State.setGaps_txPending (tg : List (List Between)) (ig : List (List Quiet)) : (s.setGaps tg ig).txPending = s.txPending := rfl
@[simp] theorem State.setGaps_resetState (tg : List (List Between)) (ig : List (List Quiet)) : (s.setGaps tg ig).resetState = s.resetState := rfl
@[simp] theorem State.setGaps_ctlDtr (tg : List (List Between)) (ig : List (List Quiet)) : (s.setGaps tg ig).ctlDtr = s.ctlDtr := rfl
@[simp] theorem State.setGaps_ctlRts (tg : List (List Between)) (ig : List (List Quiet)) : (s.setGaps tg ig).ctlRts = s.ctlRts := rfl
@[simp] theorem State.setGaps_irqActive (tg : List (List Between)) (ig : List (List Quiet)) : (s.setGaps tg ig).irqActive = s.irqActive := rfl
@[simp] theorem State.setGaps_setupPending (tg : List (List Between)) (ig : List (List Quiet)) : (s.setGaps tg ig).setupPending = s.setupPending := rfl
@[simp] theorem State.setGaps_wireLog (tg : List (List Between)) (ig : List (List Quiet)) : (s.setGaps tg ig).wireLog = s.wireLog := rfl
@[simp] theorem State.setGaps_fault (tg : List (List Between)) (ig : List (List Quiet)) : (s.setGaps tg ig).fault = s.fault := rfl
@[simp] theorem State.setGaps_refused (tg : List (List Between)) (ig : List (List Quiet)) : (s.setGaps tg ig).refused = s.refused := rfl
@[simp] theorem State.setGaps_refusal (tg : List (List Between)) (ig : List (List Quiet)) : (s.setGaps tg ig).refusal = s.refusal := rfl
@[simp] theorem State.setGaps_taskStopped (tg : List (List Between)) (ig : List (List Quiet)) : (s.setGaps tg ig).taskStopped = s.taskStopped := rfl
@[simp] theorem State.setGaps_irqStopped (tg : List (List Between)) (ig : List (List Quiet)) : (s.setGaps tg ig).irqStopped = s.irqStopped := rfl
@[simp] theorem State.setGaps_wireStopped (tg : List (List Between)) (ig : List (List Quiet)) : (s.setGaps tg ig).wireStopped = s.wireStopped := rfl
@[simp] theorem State.setGaps_taskPort (tg : List (List Between)) (ig : List (List Quiet)) : (s.setGaps tg ig).taskPort = s.taskPort := rfl
@[simp] theorem State.setGaps_irqPort (tg : List (List Between)) (ig : List (List Quiet)) : (s.setGaps tg ig).irqPort = s.irqPort := rfl
@[simp] theorem State.setGaps_wirePort (tg : List (List Between)) (ig : List (List Quiet)) : (s.setGaps tg ig).wirePort = s.wirePort := rfl
@[simp] theorem State.setGaps_issuer (tg : List (List Between)) (ig : List (List Quiet)) : (s.setGaps tg ig).issuer = s.issuer := rfl
@[simp] theorem State.setGaps_inData (tg : List (List Between)) (ig : List (List Quiet)) : (s.setGaps tg ig).inData = s.inData := rfl
@[simp] theorem State.setGaps_params (tg : List (List Between)) (ig : List (List Quiet)) : (s.setGaps tg ig).params = s.params := rfl
@[simp] theorem State.setGaps_program (tg : List (List Between)) (ig : List (List Quiet)) : (s.setGaps tg ig).program = s.program := rfl
@[simp] theorem State.setGaps_programTail (tg : List (List Between)) (ig : List (List Quiet)) : (s.setGaps tg ig).programTail = s.programTail := rfl
@[simp] theorem State.setGaps_taskNext (tg : List (List Between)) (ig : List (List Quiet)) : (s.setGaps tg ig).taskNext = s.taskNext := rfl
@[simp] theorem State.setGaps_schedule (tg : List (List Between)) (ig : List (List Quiet)) : (s.setGaps tg ig).schedule = s.schedule := rfl
@[simp] theorem State.setGaps_fresh (tg : List (List Between)) (ig : List (List Quiet)) : (s.setGaps tg ig).fresh = s.fresh := rfl
@[simp] theorem State.setGaps_resets (tg : List (List Between)) (ig : List (List Quiet)) : (s.setGaps tg ig).resets = s.resets := rfl

/-! `State.setPma` -/

@[simp] theorem State.setPma_epr (m : Memory) : (s.setPma m).epr = s.epr := rfl
@[simp] theorem State.setPma_bdt (m : Memory) : (s.setPma m).bdt = s.bdt := rfl
@[simp] theorem State.setPma_rxBuf (m : Memory) : (s.setPma m).rxBuf = s.rxBuf := rfl
@[simp] theorem State.setPma_rxUnread (m : Memory) : (s.setPma m).rxUnread = s.rxUnread := rfl
@[simp] theorem State.setPma_rxOffset (m : Memory) : (s.setPma m).rxOffset = s.rxOffset := rfl
@[simp] theorem State.setPma_txPending (m : Memory) : (s.setPma m).txPending = s.txPending := rfl
@[simp] theorem State.setPma_resetState (m : Memory) : (s.setPma m).resetState = s.resetState := rfl
@[simp] theorem State.setPma_ctlDtr (m : Memory) : (s.setPma m).ctlDtr = s.ctlDtr := rfl
@[simp] theorem State.setPma_ctlRts (m : Memory) : (s.setPma m).ctlRts = s.ctlRts := rfl
@[simp] theorem State.setPma_irqActive (m : Memory) : (s.setPma m).irqActive = s.irqActive := rfl
@[simp] theorem State.setPma_setupPending (m : Memory) : (s.setPma m).setupPending = s.setupPending := rfl
@[simp] theorem State.setPma_wireLog (m : Memory) : (s.setPma m).wireLog = s.wireLog := rfl
@[simp] theorem State.setPma_fault (m : Memory) : (s.setPma m).fault = s.fault := rfl
@[simp] theorem State.setPma_refused (m : Memory) : (s.setPma m).refused = s.refused := rfl
@[simp] theorem State.setPma_refusal (m : Memory) : (s.setPma m).refusal = s.refusal := rfl
@[simp] theorem State.setPma_taskStopped (m : Memory) : (s.setPma m).taskStopped = s.taskStopped := rfl
@[simp] theorem State.setPma_irqStopped (m : Memory) : (s.setPma m).irqStopped = s.irqStopped := rfl
@[simp] theorem State.setPma_wireStopped (m : Memory) : (s.setPma m).wireStopped = s.wireStopped := rfl
@[simp] theorem State.setPma_taskPort (m : Memory) : (s.setPma m).taskPort = s.taskPort := rfl
@[simp] theorem State.setPma_irqPort (m : Memory) : (s.setPma m).irqPort = s.irqPort := rfl
@[simp] theorem State.setPma_wirePort (m : Memory) : (s.setPma m).wirePort = s.wirePort := rfl
@[simp] theorem State.setPma_issuer (m : Memory) : (s.setPma m).issuer = s.issuer := rfl
@[simp] theorem State.setPma_inData (m : Memory) : (s.setPma m).inData = s.inData := rfl
@[simp] theorem State.setPma_taskGaps (m : Memory) : (s.setPma m).taskGaps = s.taskGaps := rfl
@[simp] theorem State.setPma_irqGaps (m : Memory) : (s.setPma m).irqGaps = s.irqGaps := rfl
@[simp] theorem State.setPma_params (m : Memory) : (s.setPma m).params = s.params := rfl
@[simp] theorem State.setPma_program (m : Memory) : (s.setPma m).program = s.program := rfl
@[simp] theorem State.setPma_programTail (m : Memory) : (s.setPma m).programTail = s.programTail := rfl
@[simp] theorem State.setPma_taskNext (m : Memory) : (s.setPma m).taskNext = s.taskNext := rfl
@[simp] theorem State.setPma_schedule (m : Memory) : (s.setPma m).schedule = s.schedule := rfl
@[simp] theorem State.setPma_fresh (m : Memory) : (s.setPma m).fresh = s.fresh := rfl
@[simp] theorem State.setPma_resets (m : Memory) : (s.setPma m).resets = s.resets := rfl

/-! `State.setRxBuf` -/

@[simp] theorem State.setRxBuf_epr (m : Memory) : (s.setRxBuf m).epr = s.epr := rfl
@[simp] theorem State.setRxBuf_bdt (m : Memory) : (s.setRxBuf m).bdt = s.bdt := rfl
@[simp] theorem State.setRxBuf_pma (m : Memory) : (s.setRxBuf m).pma = s.pma := rfl
@[simp] theorem State.setRxBuf_rxUnread (m : Memory) : (s.setRxBuf m).rxUnread = s.rxUnread := rfl
@[simp] theorem State.setRxBuf_rxOffset (m : Memory) : (s.setRxBuf m).rxOffset = s.rxOffset := rfl
@[simp] theorem State.setRxBuf_txPending (m : Memory) : (s.setRxBuf m).txPending = s.txPending := rfl
@[simp] theorem State.setRxBuf_resetState (m : Memory) : (s.setRxBuf m).resetState = s.resetState := rfl
@[simp] theorem State.setRxBuf_ctlDtr (m : Memory) : (s.setRxBuf m).ctlDtr = s.ctlDtr := rfl
@[simp] theorem State.setRxBuf_ctlRts (m : Memory) : (s.setRxBuf m).ctlRts = s.ctlRts := rfl
@[simp] theorem State.setRxBuf_irqActive (m : Memory) : (s.setRxBuf m).irqActive = s.irqActive := rfl
@[simp] theorem State.setRxBuf_setupPending (m : Memory) : (s.setRxBuf m).setupPending = s.setupPending := rfl
@[simp] theorem State.setRxBuf_wireLog (m : Memory) : (s.setRxBuf m).wireLog = s.wireLog := rfl
@[simp] theorem State.setRxBuf_fault (m : Memory) : (s.setRxBuf m).fault = s.fault := rfl
@[simp] theorem State.setRxBuf_refused (m : Memory) : (s.setRxBuf m).refused = s.refused := rfl
@[simp] theorem State.setRxBuf_refusal (m : Memory) : (s.setRxBuf m).refusal = s.refusal := rfl
@[simp] theorem State.setRxBuf_taskStopped (m : Memory) : (s.setRxBuf m).taskStopped = s.taskStopped := rfl
@[simp] theorem State.setRxBuf_irqStopped (m : Memory) : (s.setRxBuf m).irqStopped = s.irqStopped := rfl
@[simp] theorem State.setRxBuf_wireStopped (m : Memory) : (s.setRxBuf m).wireStopped = s.wireStopped := rfl
@[simp] theorem State.setRxBuf_taskPort (m : Memory) : (s.setRxBuf m).taskPort = s.taskPort := rfl
@[simp] theorem State.setRxBuf_irqPort (m : Memory) : (s.setRxBuf m).irqPort = s.irqPort := rfl
@[simp] theorem State.setRxBuf_wirePort (m : Memory) : (s.setRxBuf m).wirePort = s.wirePort := rfl
@[simp] theorem State.setRxBuf_issuer (m : Memory) : (s.setRxBuf m).issuer = s.issuer := rfl
@[simp] theorem State.setRxBuf_inData (m : Memory) : (s.setRxBuf m).inData = s.inData := rfl
@[simp] theorem State.setRxBuf_taskGaps (m : Memory) : (s.setRxBuf m).taskGaps = s.taskGaps := rfl
@[simp] theorem State.setRxBuf_irqGaps (m : Memory) : (s.setRxBuf m).irqGaps = s.irqGaps := rfl
@[simp] theorem State.setRxBuf_params (m : Memory) : (s.setRxBuf m).params = s.params := rfl
@[simp] theorem State.setRxBuf_program (m : Memory) : (s.setRxBuf m).program = s.program := rfl
@[simp] theorem State.setRxBuf_programTail (m : Memory) : (s.setRxBuf m).programTail = s.programTail := rfl
@[simp] theorem State.setRxBuf_taskNext (m : Memory) : (s.setRxBuf m).taskNext = s.taskNext := rfl
@[simp] theorem State.setRxBuf_schedule (m : Memory) : (s.setRxBuf m).schedule = s.schedule := rfl
@[simp] theorem State.setRxBuf_fresh (m : Memory) : (s.setRxBuf m).fresh = s.fresh := rfl
@[simp] theorem State.setRxBuf_resets (m : Memory) : (s.setRxBuf m).resets = s.resets := rfl

/-! `State.setRxUnread` -/

@[simp] theorem State.setRxUnread_epr (n : Nat) : (s.setRxUnread n).epr = s.epr := rfl
@[simp] theorem State.setRxUnread_bdt (n : Nat) : (s.setRxUnread n).bdt = s.bdt := rfl
@[simp] theorem State.setRxUnread_pma (n : Nat) : (s.setRxUnread n).pma = s.pma := rfl
@[simp] theorem State.setRxUnread_rxBuf (n : Nat) : (s.setRxUnread n).rxBuf = s.rxBuf := rfl
@[simp] theorem State.setRxUnread_rxOffset (n : Nat) : (s.setRxUnread n).rxOffset = s.rxOffset := rfl
@[simp] theorem State.setRxUnread_txPending (n : Nat) : (s.setRxUnread n).txPending = s.txPending := rfl
@[simp] theorem State.setRxUnread_resetState (n : Nat) : (s.setRxUnread n).resetState = s.resetState := rfl
@[simp] theorem State.setRxUnread_ctlDtr (n : Nat) : (s.setRxUnread n).ctlDtr = s.ctlDtr := rfl
@[simp] theorem State.setRxUnread_ctlRts (n : Nat) : (s.setRxUnread n).ctlRts = s.ctlRts := rfl
@[simp] theorem State.setRxUnread_irqActive (n : Nat) : (s.setRxUnread n).irqActive = s.irqActive := rfl
@[simp] theorem State.setRxUnread_setupPending (n : Nat) : (s.setRxUnread n).setupPending = s.setupPending := rfl
@[simp] theorem State.setRxUnread_wireLog (n : Nat) : (s.setRxUnread n).wireLog = s.wireLog := rfl
@[simp] theorem State.setRxUnread_fault (n : Nat) : (s.setRxUnread n).fault = s.fault := rfl
@[simp] theorem State.setRxUnread_refused (n : Nat) : (s.setRxUnread n).refused = s.refused := rfl
@[simp] theorem State.setRxUnread_refusal (n : Nat) : (s.setRxUnread n).refusal = s.refusal := rfl
@[simp] theorem State.setRxUnread_taskStopped (n : Nat) : (s.setRxUnread n).taskStopped = s.taskStopped := rfl
@[simp] theorem State.setRxUnread_irqStopped (n : Nat) : (s.setRxUnread n).irqStopped = s.irqStopped := rfl
@[simp] theorem State.setRxUnread_wireStopped (n : Nat) : (s.setRxUnread n).wireStopped = s.wireStopped := rfl
@[simp] theorem State.setRxUnread_taskPort (n : Nat) : (s.setRxUnread n).taskPort = s.taskPort := rfl
@[simp] theorem State.setRxUnread_irqPort (n : Nat) : (s.setRxUnread n).irqPort = s.irqPort := rfl
@[simp] theorem State.setRxUnread_wirePort (n : Nat) : (s.setRxUnread n).wirePort = s.wirePort := rfl
@[simp] theorem State.setRxUnread_issuer (n : Nat) : (s.setRxUnread n).issuer = s.issuer := rfl
@[simp] theorem State.setRxUnread_inData (n : Nat) : (s.setRxUnread n).inData = s.inData := rfl
@[simp] theorem State.setRxUnread_taskGaps (n : Nat) : (s.setRxUnread n).taskGaps = s.taskGaps := rfl
@[simp] theorem State.setRxUnread_irqGaps (n : Nat) : (s.setRxUnread n).irqGaps = s.irqGaps := rfl
@[simp] theorem State.setRxUnread_params (n : Nat) : (s.setRxUnread n).params = s.params := rfl
@[simp] theorem State.setRxUnread_program (n : Nat) : (s.setRxUnread n).program = s.program := rfl
@[simp] theorem State.setRxUnread_programTail (n : Nat) : (s.setRxUnread n).programTail = s.programTail := rfl
@[simp] theorem State.setRxUnread_taskNext (n : Nat) : (s.setRxUnread n).taskNext = s.taskNext := rfl
@[simp] theorem State.setRxUnread_schedule (n : Nat) : (s.setRxUnread n).schedule = s.schedule := rfl
@[simp] theorem State.setRxUnread_fresh (n : Nat) : (s.setRxUnread n).fresh = s.fresh := rfl
@[simp] theorem State.setRxUnread_resets (n : Nat) : (s.setRxUnread n).resets = s.resets := rfl

/-! `State.setRxOffset` -/

@[simp] theorem State.setRxOffset_epr (n : Nat) : (s.setRxOffset n).epr = s.epr := rfl
@[simp] theorem State.setRxOffset_bdt (n : Nat) : (s.setRxOffset n).bdt = s.bdt := rfl
@[simp] theorem State.setRxOffset_pma (n : Nat) : (s.setRxOffset n).pma = s.pma := rfl
@[simp] theorem State.setRxOffset_rxBuf (n : Nat) : (s.setRxOffset n).rxBuf = s.rxBuf := rfl
@[simp] theorem State.setRxOffset_rxUnread (n : Nat) : (s.setRxOffset n).rxUnread = s.rxUnread := rfl
@[simp] theorem State.setRxOffset_txPending (n : Nat) : (s.setRxOffset n).txPending = s.txPending := rfl
@[simp] theorem State.setRxOffset_resetState (n : Nat) : (s.setRxOffset n).resetState = s.resetState := rfl
@[simp] theorem State.setRxOffset_ctlDtr (n : Nat) : (s.setRxOffset n).ctlDtr = s.ctlDtr := rfl
@[simp] theorem State.setRxOffset_ctlRts (n : Nat) : (s.setRxOffset n).ctlRts = s.ctlRts := rfl
@[simp] theorem State.setRxOffset_irqActive (n : Nat) : (s.setRxOffset n).irqActive = s.irqActive := rfl
@[simp] theorem State.setRxOffset_setupPending (n : Nat) : (s.setRxOffset n).setupPending = s.setupPending := rfl
@[simp] theorem State.setRxOffset_wireLog (n : Nat) : (s.setRxOffset n).wireLog = s.wireLog := rfl
@[simp] theorem State.setRxOffset_fault (n : Nat) : (s.setRxOffset n).fault = s.fault := rfl
@[simp] theorem State.setRxOffset_refused (n : Nat) : (s.setRxOffset n).refused = s.refused := rfl
@[simp] theorem State.setRxOffset_refusal (n : Nat) : (s.setRxOffset n).refusal = s.refusal := rfl
@[simp] theorem State.setRxOffset_taskStopped (n : Nat) : (s.setRxOffset n).taskStopped = s.taskStopped := rfl
@[simp] theorem State.setRxOffset_irqStopped (n : Nat) : (s.setRxOffset n).irqStopped = s.irqStopped := rfl
@[simp] theorem State.setRxOffset_wireStopped (n : Nat) : (s.setRxOffset n).wireStopped = s.wireStopped := rfl
@[simp] theorem State.setRxOffset_taskPort (n : Nat) : (s.setRxOffset n).taskPort = s.taskPort := rfl
@[simp] theorem State.setRxOffset_irqPort (n : Nat) : (s.setRxOffset n).irqPort = s.irqPort := rfl
@[simp] theorem State.setRxOffset_wirePort (n : Nat) : (s.setRxOffset n).wirePort = s.wirePort := rfl
@[simp] theorem State.setRxOffset_issuer (n : Nat) : (s.setRxOffset n).issuer = s.issuer := rfl
@[simp] theorem State.setRxOffset_inData (n : Nat) : (s.setRxOffset n).inData = s.inData := rfl
@[simp] theorem State.setRxOffset_taskGaps (n : Nat) : (s.setRxOffset n).taskGaps = s.taskGaps := rfl
@[simp] theorem State.setRxOffset_irqGaps (n : Nat) : (s.setRxOffset n).irqGaps = s.irqGaps := rfl
@[simp] theorem State.setRxOffset_params (n : Nat) : (s.setRxOffset n).params = s.params := rfl
@[simp] theorem State.setRxOffset_program (n : Nat) : (s.setRxOffset n).program = s.program := rfl
@[simp] theorem State.setRxOffset_programTail (n : Nat) : (s.setRxOffset n).programTail = s.programTail := rfl
@[simp] theorem State.setRxOffset_taskNext (n : Nat) : (s.setRxOffset n).taskNext = s.taskNext := rfl
@[simp] theorem State.setRxOffset_schedule (n : Nat) : (s.setRxOffset n).schedule = s.schedule := rfl
@[simp] theorem State.setRxOffset_fresh (n : Nat) : (s.setRxOffset n).fresh = s.fresh := rfl
@[simp] theorem State.setRxOffset_resets (n : Nat) : (s.setRxOffset n).resets = s.resets := rfl

/-! `State.setTxPending` -/

@[simp] theorem State.setTxPending_epr (n : Nat) : (s.setTxPending n).epr = s.epr := rfl
@[simp] theorem State.setTxPending_bdt (n : Nat) : (s.setTxPending n).bdt = s.bdt := rfl
@[simp] theorem State.setTxPending_pma (n : Nat) : (s.setTxPending n).pma = s.pma := rfl
@[simp] theorem State.setTxPending_rxBuf (n : Nat) : (s.setTxPending n).rxBuf = s.rxBuf := rfl
@[simp] theorem State.setTxPending_rxUnread (n : Nat) : (s.setTxPending n).rxUnread = s.rxUnread := rfl
@[simp] theorem State.setTxPending_rxOffset (n : Nat) : (s.setTxPending n).rxOffset = s.rxOffset := rfl
@[simp] theorem State.setTxPending_resetState (n : Nat) : (s.setTxPending n).resetState = s.resetState := rfl
@[simp] theorem State.setTxPending_ctlDtr (n : Nat) : (s.setTxPending n).ctlDtr = s.ctlDtr := rfl
@[simp] theorem State.setTxPending_ctlRts (n : Nat) : (s.setTxPending n).ctlRts = s.ctlRts := rfl
@[simp] theorem State.setTxPending_irqActive (n : Nat) : (s.setTxPending n).irqActive = s.irqActive := rfl
@[simp] theorem State.setTxPending_setupPending (n : Nat) : (s.setTxPending n).setupPending = s.setupPending := rfl
@[simp] theorem State.setTxPending_wireLog (n : Nat) : (s.setTxPending n).wireLog = s.wireLog := rfl
@[simp] theorem State.setTxPending_fault (n : Nat) : (s.setTxPending n).fault = s.fault := rfl
@[simp] theorem State.setTxPending_refused (n : Nat) : (s.setTxPending n).refused = s.refused := rfl
@[simp] theorem State.setTxPending_refusal (n : Nat) : (s.setTxPending n).refusal = s.refusal := rfl
@[simp] theorem State.setTxPending_taskStopped (n : Nat) : (s.setTxPending n).taskStopped = s.taskStopped := rfl
@[simp] theorem State.setTxPending_irqStopped (n : Nat) : (s.setTxPending n).irqStopped = s.irqStopped := rfl
@[simp] theorem State.setTxPending_wireStopped (n : Nat) : (s.setTxPending n).wireStopped = s.wireStopped := rfl
@[simp] theorem State.setTxPending_taskPort (n : Nat) : (s.setTxPending n).taskPort = s.taskPort := rfl
@[simp] theorem State.setTxPending_irqPort (n : Nat) : (s.setTxPending n).irqPort = s.irqPort := rfl
@[simp] theorem State.setTxPending_wirePort (n : Nat) : (s.setTxPending n).wirePort = s.wirePort := rfl
@[simp] theorem State.setTxPending_issuer (n : Nat) : (s.setTxPending n).issuer = s.issuer := rfl
@[simp] theorem State.setTxPending_inData (n : Nat) : (s.setTxPending n).inData = s.inData := rfl
@[simp] theorem State.setTxPending_taskGaps (n : Nat) : (s.setTxPending n).taskGaps = s.taskGaps := rfl
@[simp] theorem State.setTxPending_irqGaps (n : Nat) : (s.setTxPending n).irqGaps = s.irqGaps := rfl
@[simp] theorem State.setTxPending_params (n : Nat) : (s.setTxPending n).params = s.params := rfl
@[simp] theorem State.setTxPending_program (n : Nat) : (s.setTxPending n).program = s.program := rfl
@[simp] theorem State.setTxPending_programTail (n : Nat) : (s.setTxPending n).programTail = s.programTail := rfl
@[simp] theorem State.setTxPending_taskNext (n : Nat) : (s.setTxPending n).taskNext = s.taskNext := rfl
@[simp] theorem State.setTxPending_schedule (n : Nat) : (s.setTxPending n).schedule = s.schedule := rfl
@[simp] theorem State.setTxPending_fresh (n : Nat) : (s.setTxPending n).fresh = s.fresh := rfl
@[simp] theorem State.setTxPending_resets (n : Nat) : (s.setTxPending n).resets = s.resets := rfl

/-! `State.setSetupPending` -/

@[simp] theorem State.setSetupPending_epr (p : Option SetupPacket) : (s.setSetupPending p).epr = s.epr := rfl
@[simp] theorem State.setSetupPending_bdt (p : Option SetupPacket) : (s.setSetupPending p).bdt = s.bdt := rfl
@[simp] theorem State.setSetupPending_pma (p : Option SetupPacket) : (s.setSetupPending p).pma = s.pma := rfl
@[simp] theorem State.setSetupPending_rxBuf (p : Option SetupPacket) : (s.setSetupPending p).rxBuf = s.rxBuf := rfl
@[simp] theorem State.setSetupPending_rxUnread (p : Option SetupPacket) : (s.setSetupPending p).rxUnread = s.rxUnread := rfl
@[simp] theorem State.setSetupPending_rxOffset (p : Option SetupPacket) : (s.setSetupPending p).rxOffset = s.rxOffset := rfl
@[simp] theorem State.setSetupPending_txPending (p : Option SetupPacket) : (s.setSetupPending p).txPending = s.txPending := rfl
@[simp] theorem State.setSetupPending_resetState (p : Option SetupPacket) : (s.setSetupPending p).resetState = s.resetState := rfl
@[simp] theorem State.setSetupPending_ctlDtr (p : Option SetupPacket) : (s.setSetupPending p).ctlDtr = s.ctlDtr := rfl
@[simp] theorem State.setSetupPending_ctlRts (p : Option SetupPacket) : (s.setSetupPending p).ctlRts = s.ctlRts := rfl
@[simp] theorem State.setSetupPending_irqActive (p : Option SetupPacket) : (s.setSetupPending p).irqActive = s.irqActive := rfl
@[simp] theorem State.setSetupPending_wireLog (p : Option SetupPacket) : (s.setSetupPending p).wireLog = s.wireLog := rfl
@[simp] theorem State.setSetupPending_fault (p : Option SetupPacket) : (s.setSetupPending p).fault = s.fault := rfl
@[simp] theorem State.setSetupPending_refused (p : Option SetupPacket) : (s.setSetupPending p).refused = s.refused := rfl
@[simp] theorem State.setSetupPending_refusal (p : Option SetupPacket) : (s.setSetupPending p).refusal = s.refusal := rfl
@[simp] theorem State.setSetupPending_taskStopped (p : Option SetupPacket) : (s.setSetupPending p).taskStopped = s.taskStopped := rfl
@[simp] theorem State.setSetupPending_irqStopped (p : Option SetupPacket) : (s.setSetupPending p).irqStopped = s.irqStopped := rfl
@[simp] theorem State.setSetupPending_wireStopped (p : Option SetupPacket) : (s.setSetupPending p).wireStopped = s.wireStopped := rfl
@[simp] theorem State.setSetupPending_taskPort (p : Option SetupPacket) : (s.setSetupPending p).taskPort = s.taskPort := rfl
@[simp] theorem State.setSetupPending_irqPort (p : Option SetupPacket) : (s.setSetupPending p).irqPort = s.irqPort := rfl
@[simp] theorem State.setSetupPending_wirePort (p : Option SetupPacket) : (s.setSetupPending p).wirePort = s.wirePort := rfl
@[simp] theorem State.setSetupPending_issuer (p : Option SetupPacket) : (s.setSetupPending p).issuer = s.issuer := rfl
@[simp] theorem State.setSetupPending_inData (p : Option SetupPacket) : (s.setSetupPending p).inData = s.inData := rfl
@[simp] theorem State.setSetupPending_taskGaps (p : Option SetupPacket) : (s.setSetupPending p).taskGaps = s.taskGaps := rfl
@[simp] theorem State.setSetupPending_irqGaps (p : Option SetupPacket) : (s.setSetupPending p).irqGaps = s.irqGaps := rfl
@[simp] theorem State.setSetupPending_params (p : Option SetupPacket) : (s.setSetupPending p).params = s.params := rfl
@[simp] theorem State.setSetupPending_program (p : Option SetupPacket) : (s.setSetupPending p).program = s.program := rfl
@[simp] theorem State.setSetupPending_programTail (p : Option SetupPacket) : (s.setSetupPending p).programTail = s.programTail := rfl
@[simp] theorem State.setSetupPending_taskNext (p : Option SetupPacket) : (s.setSetupPending p).taskNext = s.taskNext := rfl
@[simp] theorem State.setSetupPending_schedule (p : Option SetupPacket) : (s.setSetupPending p).schedule = s.schedule := rfl
@[simp] theorem State.setSetupPending_fresh (p : Option SetupPacket) : (s.setSetupPending p).fresh = s.fresh := rfl
@[simp] theorem State.setSetupPending_resets (p : Option SetupPacket) : (s.setSetupPending p).resets = s.resets := rfl

/-! `State.setTaskNext` -/

@[simp] theorem State.setTaskNext_epr (n : Nat) : (s.setTaskNext n).epr = s.epr := rfl
@[simp] theorem State.setTaskNext_bdt (n : Nat) : (s.setTaskNext n).bdt = s.bdt := rfl
@[simp] theorem State.setTaskNext_pma (n : Nat) : (s.setTaskNext n).pma = s.pma := rfl
@[simp] theorem State.setTaskNext_rxBuf (n : Nat) : (s.setTaskNext n).rxBuf = s.rxBuf := rfl
@[simp] theorem State.setTaskNext_rxUnread (n : Nat) : (s.setTaskNext n).rxUnread = s.rxUnread := rfl
@[simp] theorem State.setTaskNext_rxOffset (n : Nat) : (s.setTaskNext n).rxOffset = s.rxOffset := rfl
@[simp] theorem State.setTaskNext_txPending (n : Nat) : (s.setTaskNext n).txPending = s.txPending := rfl
@[simp] theorem State.setTaskNext_resetState (n : Nat) : (s.setTaskNext n).resetState = s.resetState := rfl
@[simp] theorem State.setTaskNext_ctlDtr (n : Nat) : (s.setTaskNext n).ctlDtr = s.ctlDtr := rfl
@[simp] theorem State.setTaskNext_ctlRts (n : Nat) : (s.setTaskNext n).ctlRts = s.ctlRts := rfl
@[simp] theorem State.setTaskNext_irqActive (n : Nat) : (s.setTaskNext n).irqActive = s.irqActive := rfl
@[simp] theorem State.setTaskNext_setupPending (n : Nat) : (s.setTaskNext n).setupPending = s.setupPending := rfl
@[simp] theorem State.setTaskNext_wireLog (n : Nat) : (s.setTaskNext n).wireLog = s.wireLog := rfl
@[simp] theorem State.setTaskNext_fault (n : Nat) : (s.setTaskNext n).fault = s.fault := rfl
@[simp] theorem State.setTaskNext_refused (n : Nat) : (s.setTaskNext n).refused = s.refused := rfl
@[simp] theorem State.setTaskNext_refusal (n : Nat) : (s.setTaskNext n).refusal = s.refusal := rfl
@[simp] theorem State.setTaskNext_taskStopped (n : Nat) : (s.setTaskNext n).taskStopped = s.taskStopped := rfl
@[simp] theorem State.setTaskNext_irqStopped (n : Nat) : (s.setTaskNext n).irqStopped = s.irqStopped := rfl
@[simp] theorem State.setTaskNext_wireStopped (n : Nat) : (s.setTaskNext n).wireStopped = s.wireStopped := rfl
@[simp] theorem State.setTaskNext_taskPort (n : Nat) : (s.setTaskNext n).taskPort = s.taskPort := rfl
@[simp] theorem State.setTaskNext_irqPort (n : Nat) : (s.setTaskNext n).irqPort = s.irqPort := rfl
@[simp] theorem State.setTaskNext_wirePort (n : Nat) : (s.setTaskNext n).wirePort = s.wirePort := rfl
@[simp] theorem State.setTaskNext_issuer (n : Nat) : (s.setTaskNext n).issuer = s.issuer := rfl
@[simp] theorem State.setTaskNext_inData (n : Nat) : (s.setTaskNext n).inData = s.inData := rfl
@[simp] theorem State.setTaskNext_taskGaps (n : Nat) : (s.setTaskNext n).taskGaps = s.taskGaps := rfl
@[simp] theorem State.setTaskNext_irqGaps (n : Nat) : (s.setTaskNext n).irqGaps = s.irqGaps := rfl
@[simp] theorem State.setTaskNext_params (n : Nat) : (s.setTaskNext n).params = s.params := rfl
@[simp] theorem State.setTaskNext_program (n : Nat) : (s.setTaskNext n).program = s.program := rfl
@[simp] theorem State.setTaskNext_programTail (n : Nat) : (s.setTaskNext n).programTail = s.programTail := rfl
@[simp] theorem State.setTaskNext_schedule (n : Nat) : (s.setTaskNext n).schedule = s.schedule := rfl
@[simp] theorem State.setTaskNext_fresh (n : Nat) : (s.setTaskNext n).fresh = s.fresh := rfl
@[simp] theorem State.setTaskNext_resets (n : Nat) : (s.setTaskNext n).resets = s.resets := rfl

/-! `State.latch` -/

@[simp] theorem State.latch_epr (who : Agent) (d : List Byte) (tg : List (List Between)) (ig : List (List Quiet)) : (s.latch who d tg ig).epr = s.epr := rfl
@[simp] theorem State.latch_bdt (who : Agent) (d : List Byte) (tg : List (List Between)) (ig : List (List Quiet)) : (s.latch who d tg ig).bdt = s.bdt := rfl
@[simp] theorem State.latch_pma (who : Agent) (d : List Byte) (tg : List (List Between)) (ig : List (List Quiet)) : (s.latch who d tg ig).pma = s.pma := rfl
@[simp] theorem State.latch_rxBuf (who : Agent) (d : List Byte) (tg : List (List Between)) (ig : List (List Quiet)) : (s.latch who d tg ig).rxBuf = s.rxBuf := rfl
@[simp] theorem State.latch_rxUnread (who : Agent) (d : List Byte) (tg : List (List Between)) (ig : List (List Quiet)) : (s.latch who d tg ig).rxUnread = s.rxUnread := rfl
@[simp] theorem State.latch_rxOffset (who : Agent) (d : List Byte) (tg : List (List Between)) (ig : List (List Quiet)) : (s.latch who d tg ig).rxOffset = s.rxOffset := rfl
@[simp] theorem State.latch_txPending (who : Agent) (d : List Byte) (tg : List (List Between)) (ig : List (List Quiet)) : (s.latch who d tg ig).txPending = s.txPending := rfl
@[simp] theorem State.latch_resetState (who : Agent) (d : List Byte) (tg : List (List Between)) (ig : List (List Quiet)) : (s.latch who d tg ig).resetState = s.resetState := rfl
@[simp] theorem State.latch_ctlDtr (who : Agent) (d : List Byte) (tg : List (List Between)) (ig : List (List Quiet)) : (s.latch who d tg ig).ctlDtr = s.ctlDtr := rfl
@[simp] theorem State.latch_ctlRts (who : Agent) (d : List Byte) (tg : List (List Between)) (ig : List (List Quiet)) : (s.latch who d tg ig).ctlRts = s.ctlRts := rfl
@[simp] theorem State.latch_irqActive (who : Agent) (d : List Byte) (tg : List (List Between)) (ig : List (List Quiet)) : (s.latch who d tg ig).irqActive = s.irqActive := rfl
@[simp] theorem State.latch_setupPending (who : Agent) (d : List Byte) (tg : List (List Between)) (ig : List (List Quiet)) : (s.latch who d tg ig).setupPending = s.setupPending := rfl
@[simp] theorem State.latch_wireLog (who : Agent) (d : List Byte) (tg : List (List Between)) (ig : List (List Quiet)) : (s.latch who d tg ig).wireLog = s.wireLog := rfl
@[simp] theorem State.latch_fault (who : Agent) (d : List Byte) (tg : List (List Between)) (ig : List (List Quiet)) : (s.latch who d tg ig).fault = s.fault := rfl
@[simp] theorem State.latch_refused (who : Agent) (d : List Byte) (tg : List (List Between)) (ig : List (List Quiet)) : (s.latch who d tg ig).refused = s.refused := rfl
@[simp] theorem State.latch_refusal (who : Agent) (d : List Byte) (tg : List (List Between)) (ig : List (List Quiet)) : (s.latch who d tg ig).refusal = s.refusal := rfl
@[simp] theorem State.latch_taskStopped (who : Agent) (d : List Byte) (tg : List (List Between)) (ig : List (List Quiet)) : (s.latch who d tg ig).taskStopped = s.taskStopped := rfl
@[simp] theorem State.latch_irqStopped (who : Agent) (d : List Byte) (tg : List (List Between)) (ig : List (List Quiet)) : (s.latch who d tg ig).irqStopped = s.irqStopped := rfl
@[simp] theorem State.latch_wireStopped (who : Agent) (d : List Byte) (tg : List (List Between)) (ig : List (List Quiet)) : (s.latch who d tg ig).wireStopped = s.wireStopped := rfl
@[simp] theorem State.latch_taskPort (who : Agent) (d : List Byte) (tg : List (List Between)) (ig : List (List Quiet)) : (s.latch who d tg ig).taskPort = s.taskPort := rfl
@[simp] theorem State.latch_irqPort (who : Agent) (d : List Byte) (tg : List (List Between)) (ig : List (List Quiet)) : (s.latch who d tg ig).irqPort = s.irqPort := rfl
@[simp] theorem State.latch_wirePort (who : Agent) (d : List Byte) (tg : List (List Between)) (ig : List (List Quiet)) : (s.latch who d tg ig).wirePort = s.wirePort := rfl
@[simp] theorem State.latch_params (who : Agent) (d : List Byte) (tg : List (List Between)) (ig : List (List Quiet)) : (s.latch who d tg ig).params = s.params := rfl
@[simp] theorem State.latch_program (who : Agent) (d : List Byte) (tg : List (List Between)) (ig : List (List Quiet)) : (s.latch who d tg ig).program = s.program := rfl
@[simp] theorem State.latch_programTail (who : Agent) (d : List Byte) (tg : List (List Between)) (ig : List (List Quiet)) : (s.latch who d tg ig).programTail = s.programTail := rfl
@[simp] theorem State.latch_taskNext (who : Agent) (d : List Byte) (tg : List (List Between)) (ig : List (List Quiet)) : (s.latch who d tg ig).taskNext = s.taskNext := rfl
@[simp] theorem State.latch_schedule (who : Agent) (d : List Byte) (tg : List (List Between)) (ig : List (List Quiet)) : (s.latch who d tg ig).schedule = s.schedule := rfl
@[simp] theorem State.latch_resets (who : Agent) (d : List Byte) (tg : List (List Between)) (ig : List (List Quiet)) : (s.latch who d tg ig).resets = s.resets := rfl

/-! `State.eprAt` after an update of something else. -/

@[simp] theorem State.setBdt_eprAt (ep : EpNum) (d : Descriptor) (e : EpNum) : (s.setBdt ep d).eprAt e = s.eprAt e := rfl
@[simp] theorem State.setTxCount_eprAt (ep : EpNum) (n : Nat) (e : EpNum) : (s.setTxCount ep n).eprAt e = s.eprAt e := rfl
@[simp] theorem State.setRxCount_eprAt (ep : EpNum) (n : Nat) (e : EpNum) : (s.setRxCount ep n).eprAt e = s.eprAt e := rfl
@[simp] theorem State.setRxCapacity_eprAt (ep : EpNum) (n : Nat) (e : EpNum) : (s.setRxCapacity ep n).eprAt e = s.eprAt e := rfl
@[simp] theorem State.log_eprAt (r : WireRecord) (e : EpNum) : (s.log r).eprAt e = s.eprAt e := rfl
@[simp] theorem State.stop_eprAt (who : Agent) (e : EpNum) : (s.stop who).eprAt e = s.eprAt e := by cases who <;> rfl
@[simp] theorem State.raise_eprAt (who : Agent) (f : FaultInfo) (e : EpNum) : (s.raise who f).eprAt e = s.eprAt e := by cases who <;> rfl
@[simp] theorem State.refuse_eprAt (who : Agent) (r : RefusalInfo) (e : EpNum) : (s.refuse who r).eprAt e = s.eprAt e := by cases who <;> rfl
@[simp] theorem State.setPort_eprAt (who : Agent) (p : Port) (e : EpNum) : (s.setPort who p).eprAt e = s.eprAt e := by cases who <;> rfl
@[simp] theorem State.clearPort_eprAt (who : Agent) (e : EpNum) : (s.clearPort who).eprAt e = s.eprAt e := by cases who <;> rfl
@[simp] theorem State.ret_eprAt (who : Agent) (r : Result) (e : EpNum) : (s.ret who r).eprAt e = s.eprAt e := by cases who <;> rfl
@[simp] theorem State.outData_eprAt (who : Agent) (bytes : List Byte) (e : EpNum) : (s.outData who bytes).eprAt e = s.eprAt e := by cases who <;> rfl
@[simp] theorem State.enterHandler_eprAt (e : EpNum) : (s.enterHandler).eprAt e = s.eprAt e := rfl
@[simp] theorem State.leaveHandler_eprAt (e : EpNum) : (s.leaveHandler).eprAt e = s.eprAt e := rfl
@[simp] theorem State.dropGaps_eprAt (e : EpNum) : (s.dropGaps).eprAt e = s.eprAt e := rfl
@[simp] theorem State.setGaps_eprAt (tg : List (List Between)) (ig : List (List Quiet)) (e : EpNum) : (s.setGaps tg ig).eprAt e = s.eprAt e := rfl
@[simp] theorem State.setPma_eprAt (m : Memory) (e : EpNum) : (s.setPma m).eprAt e = s.eprAt e := rfl
@[simp] theorem State.setRxBuf_eprAt (m : Memory) (e : EpNum) : (s.setRxBuf m).eprAt e = s.eprAt e := rfl
@[simp] theorem State.setRxUnread_eprAt (n : Nat) (e : EpNum) : (s.setRxUnread n).eprAt e = s.eprAt e := rfl
@[simp] theorem State.setRxOffset_eprAt (n : Nat) (e : EpNum) : (s.setRxOffset n).eprAt e = s.eprAt e := rfl
@[simp] theorem State.setTxPending_eprAt (n : Nat) (e : EpNum) : (s.setTxPending n).eprAt e = s.eprAt e := rfl
@[simp] theorem State.setSetupPending_eprAt (p : Option SetupPacket) (e : EpNum) : (s.setSetupPending p).eprAt e = s.eprAt e := rfl
@[simp] theorem State.setTaskNext_eprAt (n : Nat) (e : EpNum) : (s.setTaskNext n).eprAt e = s.eprAt e := rfl
@[simp] theorem State.latch_eprAt (who : Agent) (d : List Byte) (tg : List (List Between)) (ig : List (List Quiet)) (e : EpNum) : (s.latch who d tg ig).eprAt e = s.eprAt e := rfl

/-! `State.bdtAt` after an update of something else. -/

@[simp] theorem State.setEpr_bdtAt (ep : EpNum) (v : Half) (e : EpNum) : (s.setEpr ep v).bdtAt e = s.bdtAt e := rfl
@[simp] theorem State.eprWrite_bdtAt (ep : EpNum) (w : Half) (e : EpNum) : (s.eprWrite ep w).bdtAt e = s.bdtAt e := rfl
@[simp] theorem State.log_bdtAt (r : WireRecord) (e : EpNum) : (s.log r).bdtAt e = s.bdtAt e := rfl
@[simp] theorem State.stop_bdtAt (who : Agent) (e : EpNum) : (s.stop who).bdtAt e = s.bdtAt e := by cases who <;> rfl
@[simp] theorem State.raise_bdtAt (who : Agent) (f : FaultInfo) (e : EpNum) : (s.raise who f).bdtAt e = s.bdtAt e := by cases who <;> rfl
@[simp] theorem State.refuse_bdtAt (who : Agent) (r : RefusalInfo) (e : EpNum) : (s.refuse who r).bdtAt e = s.bdtAt e := by cases who <;> rfl
@[simp] theorem State.setPort_bdtAt (who : Agent) (p : Port) (e : EpNum) : (s.setPort who p).bdtAt e = s.bdtAt e := by cases who <;> rfl
@[simp] theorem State.clearPort_bdtAt (who : Agent) (e : EpNum) : (s.clearPort who).bdtAt e = s.bdtAt e := by cases who <;> rfl
@[simp] theorem State.ret_bdtAt (who : Agent) (r : Result) (e : EpNum) : (s.ret who r).bdtAt e = s.bdtAt e := by cases who <;> rfl
@[simp] theorem State.outData_bdtAt (who : Agent) (bytes : List Byte) (e : EpNum) : (s.outData who bytes).bdtAt e = s.bdtAt e := by cases who <;> rfl
@[simp] theorem State.enterHandler_bdtAt (e : EpNum) : (s.enterHandler).bdtAt e = s.bdtAt e := rfl
@[simp] theorem State.leaveHandler_bdtAt (e : EpNum) : (s.leaveHandler).bdtAt e = s.bdtAt e := rfl
@[simp] theorem State.dropGaps_bdtAt (e : EpNum) : (s.dropGaps).bdtAt e = s.bdtAt e := rfl
@[simp] theorem State.setGaps_bdtAt (tg : List (List Between)) (ig : List (List Quiet)) (e : EpNum) : (s.setGaps tg ig).bdtAt e = s.bdtAt e := rfl
@[simp] theorem State.setPma_bdtAt (m : Memory) (e : EpNum) : (s.setPma m).bdtAt e = s.bdtAt e := rfl
@[simp] theorem State.setRxBuf_bdtAt (m : Memory) (e : EpNum) : (s.setRxBuf m).bdtAt e = s.bdtAt e := rfl
@[simp] theorem State.setRxUnread_bdtAt (n : Nat) (e : EpNum) : (s.setRxUnread n).bdtAt e = s.bdtAt e := rfl
@[simp] theorem State.setRxOffset_bdtAt (n : Nat) (e : EpNum) : (s.setRxOffset n).bdtAt e = s.bdtAt e := rfl
@[simp] theorem State.setTxPending_bdtAt (n : Nat) (e : EpNum) : (s.setTxPending n).bdtAt e = s.bdtAt e := rfl
@[simp] theorem State.setSetupPending_bdtAt (p : Option SetupPacket) (e : EpNum) : (s.setSetupPending p).bdtAt e = s.bdtAt e := rfl
@[simp] theorem State.setTaskNext_bdtAt (n : Nat) (e : EpNum) : (s.setTaskNext n).bdtAt e = s.bdtAt e := rfl
@[simp] theorem State.latch_bdtAt (who : Agent) (d : List Byte) (tg : List (List Between)) (ig : List (List Quiet)) (e : EpNum) : (s.latch who d tg ig).bdtAt e = s.bdtAt e := rfl

/-! `State.pmaByte` after an update of something else. -/

@[simp] theorem State.setEpr_pmaByte (ep : EpNum) (v : Half) (a : Nat) : (s.setEpr ep v).pmaByte a = s.pmaByte a := rfl
@[simp] theorem State.eprWrite_pmaByte (ep : EpNum) (w : Half) (a : Nat) : (s.eprWrite ep w).pmaByte a = s.pmaByte a := rfl
@[simp] theorem State.setBdt_pmaByte (ep : EpNum) (d : Descriptor) (a : Nat) : (s.setBdt ep d).pmaByte a = s.pmaByte a := rfl
@[simp] theorem State.setTxCount_pmaByte (ep : EpNum) (n : Nat) (a : Nat) : (s.setTxCount ep n).pmaByte a = s.pmaByte a := rfl
@[simp] theorem State.setRxCount_pmaByte (ep : EpNum) (n : Nat) (a : Nat) : (s.setRxCount ep n).pmaByte a = s.pmaByte a := rfl
@[simp] theorem State.setRxCapacity_pmaByte (ep : EpNum) (n : Nat) (a : Nat) : (s.setRxCapacity ep n).pmaByte a = s.pmaByte a := rfl
@[simp] theorem State.log_pmaByte (r : WireRecord) (a : Nat) : (s.log r).pmaByte a = s.pmaByte a := rfl
@[simp] theorem State.stop_pmaByte (who : Agent) (a : Nat) : (s.stop who).pmaByte a = s.pmaByte a := by cases who <;> rfl
@[simp] theorem State.raise_pmaByte (who : Agent) (f : FaultInfo) (a : Nat) : (s.raise who f).pmaByte a = s.pmaByte a := by cases who <;> rfl
@[simp] theorem State.refuse_pmaByte (who : Agent) (r : RefusalInfo) (a : Nat) : (s.refuse who r).pmaByte a = s.pmaByte a := by cases who <;> rfl
@[simp] theorem State.setPort_pmaByte (who : Agent) (p : Port) (a : Nat) : (s.setPort who p).pmaByte a = s.pmaByte a := by cases who <;> rfl
@[simp] theorem State.clearPort_pmaByte (who : Agent) (a : Nat) : (s.clearPort who).pmaByte a = s.pmaByte a := by cases who <;> rfl
@[simp] theorem State.ret_pmaByte (who : Agent) (r : Result) (a : Nat) : (s.ret who r).pmaByte a = s.pmaByte a := by cases who <;> rfl
@[simp] theorem State.outData_pmaByte (who : Agent) (bytes : List Byte) (a : Nat) : (s.outData who bytes).pmaByte a = s.pmaByte a := by cases who <;> rfl
@[simp] theorem State.enterHandler_pmaByte (a : Nat) : (s.enterHandler).pmaByte a = s.pmaByte a := rfl
@[simp] theorem State.leaveHandler_pmaByte (a : Nat) : (s.leaveHandler).pmaByte a = s.pmaByte a := rfl
@[simp] theorem State.dropGaps_pmaByte (a : Nat) : (s.dropGaps).pmaByte a = s.pmaByte a := rfl
@[simp] theorem State.setGaps_pmaByte (tg : List (List Between)) (ig : List (List Quiet)) (a : Nat) : (s.setGaps tg ig).pmaByte a = s.pmaByte a := rfl
@[simp] theorem State.setRxBuf_pmaByte (m : Memory) (a : Nat) : (s.setRxBuf m).pmaByte a = s.pmaByte a := rfl
@[simp] theorem State.setRxUnread_pmaByte (n : Nat) (a : Nat) : (s.setRxUnread n).pmaByte a = s.pmaByte a := rfl
@[simp] theorem State.setRxOffset_pmaByte (n : Nat) (a : Nat) : (s.setRxOffset n).pmaByte a = s.pmaByte a := rfl
@[simp] theorem State.setTxPending_pmaByte (n : Nat) (a : Nat) : (s.setTxPending n).pmaByte a = s.pmaByte a := rfl
@[simp] theorem State.setSetupPending_pmaByte (p : Option SetupPacket) (a : Nat) : (s.setSetupPending p).pmaByte a = s.pmaByte a := rfl
@[simp] theorem State.setTaskNext_pmaByte (n : Nat) (a : Nat) : (s.setTaskNext n).pmaByte a = s.pmaByte a := rfl
@[simp] theorem State.latch_pmaByte (who : Agent) (d : List Byte) (tg : List (List Between)) (ig : List (List Quiet)) (a : Nat) : (s.latch who d tg ig).pmaByte a = s.pmaByte a := rfl

/-! `State.rxBufByte` after an update of something else. -/

@[simp] theorem State.setEpr_rxBufByte (ep : EpNum) (v : Half) (a : Nat) : (s.setEpr ep v).rxBufByte a = s.rxBufByte a := rfl
@[simp] theorem State.eprWrite_rxBufByte (ep : EpNum) (w : Half) (a : Nat) : (s.eprWrite ep w).rxBufByte a = s.rxBufByte a := rfl
@[simp] theorem State.setBdt_rxBufByte (ep : EpNum) (d : Descriptor) (a : Nat) : (s.setBdt ep d).rxBufByte a = s.rxBufByte a := rfl
@[simp] theorem State.setTxCount_rxBufByte (ep : EpNum) (n : Nat) (a : Nat) : (s.setTxCount ep n).rxBufByte a = s.rxBufByte a := rfl
@[simp] theorem State.setRxCount_rxBufByte (ep : EpNum) (n : Nat) (a : Nat) : (s.setRxCount ep n).rxBufByte a = s.rxBufByte a := rfl
@[simp] theorem State.setRxCapacity_rxBufByte (ep : EpNum) (n : Nat) (a : Nat) : (s.setRxCapacity ep n).rxBufByte a = s.rxBufByte a := rfl
@[simp] theorem State.log_rxBufByte (r : WireRecord) (a : Nat) : (s.log r).rxBufByte a = s.rxBufByte a := rfl
@[simp] theorem State.stop_rxBufByte (who : Agent) (a : Nat) : (s.stop who).rxBufByte a = s.rxBufByte a := by cases who <;> rfl
@[simp] theorem State.raise_rxBufByte (who : Agent) (f : FaultInfo) (a : Nat) : (s.raise who f).rxBufByte a = s.rxBufByte a := by cases who <;> rfl
@[simp] theorem State.refuse_rxBufByte (who : Agent) (r : RefusalInfo) (a : Nat) : (s.refuse who r).rxBufByte a = s.rxBufByte a := by cases who <;> rfl
@[simp] theorem State.setPort_rxBufByte (who : Agent) (p : Port) (a : Nat) : (s.setPort who p).rxBufByte a = s.rxBufByte a := by cases who <;> rfl
@[simp] theorem State.clearPort_rxBufByte (who : Agent) (a : Nat) : (s.clearPort who).rxBufByte a = s.rxBufByte a := by cases who <;> rfl
@[simp] theorem State.ret_rxBufByte (who : Agent) (r : Result) (a : Nat) : (s.ret who r).rxBufByte a = s.rxBufByte a := by cases who <;> rfl
@[simp] theorem State.outData_rxBufByte (who : Agent) (bytes : List Byte) (a : Nat) : (s.outData who bytes).rxBufByte a = s.rxBufByte a := by cases who <;> rfl
@[simp] theorem State.enterHandler_rxBufByte (a : Nat) : (s.enterHandler).rxBufByte a = s.rxBufByte a := rfl
@[simp] theorem State.leaveHandler_rxBufByte (a : Nat) : (s.leaveHandler).rxBufByte a = s.rxBufByte a := rfl
@[simp] theorem State.dropGaps_rxBufByte (a : Nat) : (s.dropGaps).rxBufByte a = s.rxBufByte a := rfl
@[simp] theorem State.setGaps_rxBufByte (tg : List (List Between)) (ig : List (List Quiet)) (a : Nat) : (s.setGaps tg ig).rxBufByte a = s.rxBufByte a := rfl
@[simp] theorem State.setPma_rxBufByte (m : Memory) (a : Nat) : (s.setPma m).rxBufByte a = s.rxBufByte a := rfl
@[simp] theorem State.setRxUnread_rxBufByte (n : Nat) (a : Nat) : (s.setRxUnread n).rxBufByte a = s.rxBufByte a := rfl
@[simp] theorem State.setRxOffset_rxBufByte (n : Nat) (a : Nat) : (s.setRxOffset n).rxBufByte a = s.rxBufByte a := rfl
@[simp] theorem State.setTxPending_rxBufByte (n : Nat) (a : Nat) : (s.setTxPending n).rxBufByte a = s.rxBufByte a := rfl
@[simp] theorem State.setSetupPending_rxBufByte (p : Option SetupPacket) (a : Nat) : (s.setSetupPending p).rxBufByte a = s.rxBufByte a := rfl
@[simp] theorem State.setTaskNext_rxBufByte (n : Nat) (a : Nat) : (s.setTaskNext n).rxBufByte a = s.rxBufByte a := rfl
@[simp] theorem State.latch_rxBufByte (who : Agent) (d : List Byte) (tg : List (List Between)) (ig : List (List Quiet)) (a : Nat) : (s.latch who d tg ig).rxBufByte a = s.rxBufByte a := rfl

/-! `State.port` after an update of something else. -/

@[simp] theorem State.setEpr_port (ep : EpNum) (v : Half) (a : Agent) : (s.setEpr ep v).port a = s.port a := by cases a <;> rfl
@[simp] theorem State.eprWrite_port (ep : EpNum) (w : Half) (a : Agent) : (s.eprWrite ep w).port a = s.port a := by cases a <;> rfl
@[simp] theorem State.setBdt_port (ep : EpNum) (d : Descriptor) (a : Agent) : (s.setBdt ep d).port a = s.port a := by cases a <;> rfl
@[simp] theorem State.setTxCount_port (ep : EpNum) (n : Nat) (a : Agent) : (s.setTxCount ep n).port a = s.port a := by cases a <;> rfl
@[simp] theorem State.setRxCount_port (ep : EpNum) (n : Nat) (a : Agent) : (s.setRxCount ep n).port a = s.port a := by cases a <;> rfl
@[simp] theorem State.setRxCapacity_port (ep : EpNum) (n : Nat) (a : Agent) : (s.setRxCapacity ep n).port a = s.port a := by cases a <;> rfl
@[simp] theorem State.log_port (r : WireRecord) (a : Agent) : (s.log r).port a = s.port a := by cases a <;> rfl
@[simp] theorem State.stop_port (who : Agent) (a : Agent) : (s.stop who).port a = s.port a := by cases who <;> cases a <;> rfl
@[simp] theorem State.raise_port (who : Agent) (f : FaultInfo) (a : Agent) : (s.raise who f).port a = s.port a := by cases who <;> cases a <;> rfl
@[simp] theorem State.refuse_port (who : Agent) (r : RefusalInfo) (a : Agent) : (s.refuse who r).port a = s.port a := by cases who <;> cases a <;> rfl
@[simp] theorem State.enterHandler_port (a : Agent) : (s.enterHandler).port a = s.port a := by cases a <;> rfl
@[simp] theorem State.leaveHandler_port (a : Agent) : (s.leaveHandler).port a = s.port a := by cases a <;> rfl
@[simp] theorem State.dropGaps_port (a : Agent) : (s.dropGaps).port a = s.port a := by cases a <;> rfl
@[simp] theorem State.setGaps_port (tg : List (List Between)) (ig : List (List Quiet)) (a : Agent) : (s.setGaps tg ig).port a = s.port a := by cases a <;> rfl
@[simp] theorem State.setPma_port (m : Memory) (a : Agent) : (s.setPma m).port a = s.port a := by cases a <;> rfl
@[simp] theorem State.setRxBuf_port (m : Memory) (a : Agent) : (s.setRxBuf m).port a = s.port a := by cases a <;> rfl
@[simp] theorem State.setRxUnread_port (n : Nat) (a : Agent) : (s.setRxUnread n).port a = s.port a := by cases a <;> rfl
@[simp] theorem State.setRxOffset_port (n : Nat) (a : Agent) : (s.setRxOffset n).port a = s.port a := by cases a <;> rfl
@[simp] theorem State.setTxPending_port (n : Nat) (a : Agent) : (s.setTxPending n).port a = s.port a := by cases a <;> rfl
@[simp] theorem State.setSetupPending_port (p : Option SetupPacket) (a : Agent) : (s.setSetupPending p).port a = s.port a := by cases a <;> rfl
@[simp] theorem State.setTaskNext_port (n : Nat) (a : Agent) : (s.setTaskNext n).port a = s.port a := by cases a <;> rfl
@[simp] theorem State.latch_port (who : Agent) (d : List Byte) (tg : List (List Between)) (ig : List (List Quiet)) (a : Agent) : (s.latch who d tg ig).port a = s.port a := by cases a <;> rfl

/-! `State.item` after an update of something else. -/

@[simp] theorem State.setEpr_item (ep : EpNum) (v : Half) (k : Nat) : (s.setEpr ep v).item k = s.item k := rfl
@[simp] theorem State.eprWrite_item (ep : EpNum) (w : Half) (k : Nat) : (s.eprWrite ep w).item k = s.item k := rfl
@[simp] theorem State.setBdt_item (ep : EpNum) (d : Descriptor) (k : Nat) : (s.setBdt ep d).item k = s.item k := rfl
@[simp] theorem State.setTxCount_item (ep : EpNum) (n : Nat) (k : Nat) : (s.setTxCount ep n).item k = s.item k := rfl
@[simp] theorem State.setRxCount_item (ep : EpNum) (n : Nat) (k : Nat) : (s.setRxCount ep n).item k = s.item k := rfl
@[simp] theorem State.setRxCapacity_item (ep : EpNum) (n : Nat) (k : Nat) : (s.setRxCapacity ep n).item k = s.item k := rfl
@[simp] theorem State.log_item (r : WireRecord) (k : Nat) : (s.log r).item k = s.item k := rfl
@[simp] theorem State.stop_item (who : Agent) (k : Nat) : (s.stop who).item k = s.item k := by cases who <;> rfl
@[simp] theorem State.raise_item (who : Agent) (f : FaultInfo) (k : Nat) : (s.raise who f).item k = s.item k := by cases who <;> rfl
@[simp] theorem State.refuse_item (who : Agent) (r : RefusalInfo) (k : Nat) : (s.refuse who r).item k = s.item k := by cases who <;> rfl
@[simp] theorem State.setPort_item (who : Agent) (p : Port) (k : Nat) : (s.setPort who p).item k = s.item k := by cases who <;> rfl
@[simp] theorem State.clearPort_item (who : Agent) (k : Nat) : (s.clearPort who).item k = s.item k := by cases who <;> rfl
@[simp] theorem State.ret_item (who : Agent) (r : Result) (k : Nat) : (s.ret who r).item k = s.item k := by cases who <;> rfl
@[simp] theorem State.outData_item (who : Agent) (bytes : List Byte) (k : Nat) : (s.outData who bytes).item k = s.item k := by cases who <;> rfl
@[simp] theorem State.enterHandler_item (k : Nat) : (s.enterHandler).item k = s.item k := rfl
@[simp] theorem State.leaveHandler_item (k : Nat) : (s.leaveHandler).item k = s.item k := rfl
@[simp] theorem State.dropGaps_item (k : Nat) : (s.dropGaps).item k = s.item k := rfl
@[simp] theorem State.setGaps_item (tg : List (List Between)) (ig : List (List Quiet)) (k : Nat) : (s.setGaps tg ig).item k = s.item k := rfl
@[simp] theorem State.setPma_item (m : Memory) (k : Nat) : (s.setPma m).item k = s.item k := rfl
@[simp] theorem State.setRxBuf_item (m : Memory) (k : Nat) : (s.setRxBuf m).item k = s.item k := rfl
@[simp] theorem State.setRxUnread_item (n : Nat) (k : Nat) : (s.setRxUnread n).item k = s.item k := rfl
@[simp] theorem State.setRxOffset_item (n : Nat) (k : Nat) : (s.setRxOffset n).item k = s.item k := rfl
@[simp] theorem State.setTxPending_item (n : Nat) (k : Nat) : (s.setTxPending n).item k = s.item k := rfl
@[simp] theorem State.setSetupPending_item (p : Option SetupPacket) (k : Nat) : (s.setSetupPending p).item k = s.item k := rfl
@[simp] theorem State.setTaskNext_item (n : Nat) (k : Nat) : (s.setTaskNext n).item k = s.item k := rfl
@[simp] theorem State.latch_item (who : Agent) (d : List Byte) (tg : List (List Between)) (ig : List (List Quiet)) (k : Nat) : (s.latch who d tg ig).item k = s.item k := rfl

/-! `State.nextItem` after an update of something else. -/

@[simp] theorem State.setEpr_nextItem (ep : EpNum) (v : Half) : (s.setEpr ep v).nextItem = s.nextItem := rfl
@[simp] theorem State.eprWrite_nextItem (ep : EpNum) (w : Half) : (s.eprWrite ep w).nextItem = s.nextItem := rfl
@[simp] theorem State.setBdt_nextItem (ep : EpNum) (d : Descriptor) : (s.setBdt ep d).nextItem = s.nextItem := rfl
@[simp] theorem State.setTxCount_nextItem (ep : EpNum) (n : Nat) : (s.setTxCount ep n).nextItem = s.nextItem := rfl
@[simp] theorem State.setRxCount_nextItem (ep : EpNum) (n : Nat) : (s.setRxCount ep n).nextItem = s.nextItem := rfl
@[simp] theorem State.setRxCapacity_nextItem (ep : EpNum) (n : Nat) : (s.setRxCapacity ep n).nextItem = s.nextItem := rfl
@[simp] theorem State.log_nextItem (r : WireRecord) : (s.log r).nextItem = s.nextItem := rfl
@[simp] theorem State.stop_nextItem (who : Agent) : (s.stop who).nextItem = s.nextItem := by cases who <;> rfl
@[simp] theorem State.raise_nextItem (who : Agent) (f : FaultInfo) : (s.raise who f).nextItem = s.nextItem := by cases who <;> rfl
@[simp] theorem State.refuse_nextItem (who : Agent) (r : RefusalInfo) : (s.refuse who r).nextItem = s.nextItem := by cases who <;> rfl
@[simp] theorem State.setPort_nextItem (who : Agent) (p : Port) : (s.setPort who p).nextItem = s.nextItem := by cases who <;> rfl
@[simp] theorem State.clearPort_nextItem (who : Agent) : (s.clearPort who).nextItem = s.nextItem := by cases who <;> rfl
@[simp] theorem State.ret_nextItem (who : Agent) (r : Result) : (s.ret who r).nextItem = s.nextItem := by cases who <;> rfl
@[simp] theorem State.outData_nextItem (who : Agent) (bytes : List Byte) : (s.outData who bytes).nextItem = s.nextItem := by cases who <;> rfl
@[simp] theorem State.enterHandler_nextItem : (s.enterHandler).nextItem = s.nextItem := rfl
@[simp] theorem State.leaveHandler_nextItem : (s.leaveHandler).nextItem = s.nextItem := rfl
@[simp] theorem State.dropGaps_nextItem : (s.dropGaps).nextItem = s.nextItem := rfl
@[simp] theorem State.setGaps_nextItem (tg : List (List Between)) (ig : List (List Quiet)) : (s.setGaps tg ig).nextItem = s.nextItem := rfl
@[simp] theorem State.setPma_nextItem (m : Memory) : (s.setPma m).nextItem = s.nextItem := rfl
@[simp] theorem State.setRxBuf_nextItem (m : Memory) : (s.setRxBuf m).nextItem = s.nextItem := rfl
@[simp] theorem State.setRxUnread_nextItem (n : Nat) : (s.setRxUnread n).nextItem = s.nextItem := rfl
@[simp] theorem State.setRxOffset_nextItem (n : Nat) : (s.setRxOffset n).nextItem = s.nextItem := rfl
@[simp] theorem State.setTxPending_nextItem (n : Nat) : (s.setTxPending n).nextItem = s.nextItem := rfl
@[simp] theorem State.setSetupPending_nextItem (p : Option SetupPacket) : (s.setSetupPending p).nextItem = s.nextItem := rfl
@[simp] theorem State.latch_nextItem (who : Agent) (d : List Byte) (tg : List (List Between)) (ig : List (List Quiet)) : (s.latch who d tg ig).nextItem = s.nextItem := rfl

/-! `State.stopped` after an update of something else. -/

@[simp] theorem State.setEpr_stopped (ep : EpNum) (v : Half) (a : Agent) : (s.setEpr ep v).stopped a = s.stopped a := by cases a <;> rfl
@[simp] theorem State.eprWrite_stopped (ep : EpNum) (w : Half) (a : Agent) : (s.eprWrite ep w).stopped a = s.stopped a := by cases a <;> rfl
@[simp] theorem State.setBdt_stopped (ep : EpNum) (d : Descriptor) (a : Agent) : (s.setBdt ep d).stopped a = s.stopped a := by cases a <;> rfl
@[simp] theorem State.setTxCount_stopped (ep : EpNum) (n : Nat) (a : Agent) : (s.setTxCount ep n).stopped a = s.stopped a := by cases a <;> rfl
@[simp] theorem State.setRxCount_stopped (ep : EpNum) (n : Nat) (a : Agent) : (s.setRxCount ep n).stopped a = s.stopped a := by cases a <;> rfl
@[simp] theorem State.setRxCapacity_stopped (ep : EpNum) (n : Nat) (a : Agent) : (s.setRxCapacity ep n).stopped a = s.stopped a := by cases a <;> rfl
@[simp] theorem State.log_stopped (r : WireRecord) (a : Agent) : (s.log r).stopped a = s.stopped a := by cases a <;> rfl
@[simp] theorem State.setPort_stopped (who : Agent) (p : Port) (a : Agent) : (s.setPort who p).stopped a = s.stopped a := by cases who <;> cases a <;> rfl
@[simp] theorem State.clearPort_stopped (who : Agent) (a : Agent) : (s.clearPort who).stopped a = s.stopped a := by cases who <;> cases a <;> rfl
@[simp] theorem State.ret_stopped (who : Agent) (r : Result) (a : Agent) : (s.ret who r).stopped a = s.stopped a := by cases who <;> cases a <;> rfl
@[simp] theorem State.outData_stopped (who : Agent) (bytes : List Byte) (a : Agent) : (s.outData who bytes).stopped a = s.stopped a := by cases who <;> cases a <;> rfl
@[simp] theorem State.enterHandler_stopped (a : Agent) : (s.enterHandler).stopped a = s.stopped a := by cases a <;> rfl
@[simp] theorem State.leaveHandler_stopped (a : Agent) : (s.leaveHandler).stopped a = s.stopped a := by cases a <;> rfl
@[simp] theorem State.dropGaps_stopped (a : Agent) : (s.dropGaps).stopped a = s.stopped a := by cases a <;> rfl
@[simp] theorem State.setGaps_stopped (tg : List (List Between)) (ig : List (List Quiet)) (a : Agent) : (s.setGaps tg ig).stopped a = s.stopped a := by cases a <;> rfl
@[simp] theorem State.setPma_stopped (m : Memory) (a : Agent) : (s.setPma m).stopped a = s.stopped a := by cases a <;> rfl
@[simp] theorem State.setRxBuf_stopped (m : Memory) (a : Agent) : (s.setRxBuf m).stopped a = s.stopped a := by cases a <;> rfl
@[simp] theorem State.setRxUnread_stopped (n : Nat) (a : Agent) : (s.setRxUnread n).stopped a = s.stopped a := by cases a <;> rfl
@[simp] theorem State.setRxOffset_stopped (n : Nat) (a : Agent) : (s.setRxOffset n).stopped a = s.stopped a := by cases a <;> rfl
@[simp] theorem State.setTxPending_stopped (n : Nat) (a : Agent) : (s.setTxPending n).stopped a = s.stopped a := by cases a <;> rfl
@[simp] theorem State.setSetupPending_stopped (p : Option SetupPacket) (a : Agent) : (s.setSetupPending p).stopped a = s.stopped a := by cases a <;> rfl
@[simp] theorem State.setTaskNext_stopped (n : Nat) (a : Agent) : (s.setTaskNext n).stopped a = s.stopped a := by cases a <;> rfl
@[simp] theorem State.latch_stopped (who : Agent) (d : List Byte) (tg : List (List Between)) (ig : List (List Quiet)) (a : Agent) : (s.latch who d tg ig).stopped a = s.stopped a := by cases a <;> rfl

/-! What the updates change. -/

@[simp] theorem State.setPma_pma (m : Memory) : (s.setPma m).pma = m := rfl
@[simp] theorem State.setRxBuf_rxBuf (m : Memory) : (s.setRxBuf m).rxBuf = m := rfl
@[simp] theorem State.setRxUnread_rxUnread (n : Nat) : (s.setRxUnread n).rxUnread = n := rfl
@[simp] theorem State.setRxOffset_rxOffset (n : Nat) : (s.setRxOffset n).rxOffset = n := rfl
@[simp] theorem State.setTxPending_txPending (n : Nat) : (s.setTxPending n).txPending = n := rfl
@[simp] theorem State.setSetupPending_setupPending (p : Option SetupPacket) :
    (s.setSetupPending p).setupPending = p := rfl
@[simp] theorem State.setTaskNext_taskNext (n : Nat) : (s.setTaskNext n).taskNext = n := rfl
@[simp] theorem State.setGaps_taskGaps (tg : List (List Between)) (ig : List (List Quiet)) :
    (s.setGaps tg ig).taskGaps = tg := rfl
@[simp] theorem State.setGaps_irqGaps (tg : List (List Between)) (ig : List (List Quiet)) :
    (s.setGaps tg ig).irqGaps = ig := rfl
@[simp] theorem State.latch_issuer (who : Agent) (d : List Byte) (tg : List (List Between))
    (ig : List (List Quiet)) : (s.latch who d tg ig).issuer = who := rfl
@[simp] theorem State.latch_inData (who : Agent) (d : List Byte) (tg : List (List Between))
    (ig : List (List Quiet)) : (s.latch who d tg ig).inData = d := rfl
@[simp] theorem State.latch_fresh (who : Agent) (d : List Byte) (tg : List (List Between))
    (ig : List (List Quiet)) : (s.latch who d tg ig).fresh = false := rfl

/-! `State.item`: an item of the list, the end of a finite program, an item of the stream (00_scope.md R18). -/

theorem State.item_listed {n : Nat} (h : n < s.program.length) : s.item n = s.program[n]? := if_pos h
theorem State.item_over {n : Nat} (ht : s.programTail = none) (h : s.program.length ≤ n) : s.item n = none := by
  rw [State.item, if_neg (by omega), ht]; rfl
theorem State.item_stream {n k : Nat} (ht : s.programTail = some k) (h : s.program.length ≤ n) :
    s.item n = some (taskStreamItem k (n - s.program.length)) := by
  rw [State.item, if_neg (by omega), ht]; rfl
/-- An infinite program never runs out. -/
theorem State.nextItem_of_tail {k : Nat} (ht : s.programTail = some k) : ∃ x, s.nextItem = some x := by
  by_cases h : s.taskNext < s.program.length
  · exact ⟨_, (State.item_listed s h).trans (List.getElem?_eq_getElem h)⟩
  · exact ⟨_, State.item_stream s ht (by omega)⟩
/-- TASK's next item does not depend on the schedule. -/
@[simp] theorem State.schedule_nextItem (ts : List Turn) :
    ({ s with schedule := ts } : State).nextItem = s.nextItem := rfl

@[simp] theorem State.enterHandler_irqActive : s.enterHandler.irqActive = true := rfl
@[simp] theorem State.leaveHandler_irqActive : s.leaveHandler.irqActive = false := rfl
@[simp] theorem State.dropGaps_taskGaps : s.dropGaps.taskGaps = [] := rfl
@[simp] theorem State.dropGaps_irqGaps : s.dropGaps.irqGaps = [] := rfl
@[simp] theorem State.log_wireLog (r : WireRecord) : (s.log r).wireLog = s.wireLog ++ [r] := rfl
@[simp] theorem State.refuse_refused (who : Agent) (r : RefusalInfo) : (s.refuse who r).refused = true := by
  cases who <;> rfl
theorem State.refuse_refusal (who : Agent) (r : RefusalInfo) :
    (s.refuse who r).refusal = s.refusal.orElse fun _ => some r := by cases who <;> rfl
theorem State.raise_fault (who : Agent) (f : FaultInfo) :
    (s.raise who f).fault = s.fault.orElse fun _ => some f := by cases who <;> rfl
@[simp] theorem State.stopped_stop (who : Agent) : (s.stop who).stopped who = true := by cases who <;> rfl
theorem State.stopped_stop_other {who a : Agent} (h : a ≠ who) : (s.stop who).stopped a = s.stopped a := by
  cases who <;> cases a <;> first | rfl | exact absurd rfl h
@[simp] theorem State.stopped_raise (who : Agent) (f : FaultInfo) : (s.raise who f).stopped who = true :=
  State.stopped_stop _ who
@[simp] theorem State.stopped_refuse (who : Agent) (r : RefusalInfo) : (s.refuse who r).stopped who = true :=
  State.stopped_stop _ who
@[simp] theorem State.port_setPort (who : Agent) (p : Port) : (s.setPort who p).port who = p := by
  cases who <;> rfl
theorem State.port_setPort_other {who a : Agent} (p : Port) (h : a ≠ who) :
    (s.setPort who p).port a = s.port a := by
  cases who <;> cases a <;> first | rfl | exact absurd rfl h
@[simp] theorem State.setPort_setPort (who : Agent) (p q : Port) :
    (s.setPort who p).setPort who q = s.setPort who q := by cases who <;> rfl
@[simp] theorem State.clearPort_ret (who : Agent) (r : Result) :
    (s.clearPort who).ret who r = s.setPort who ⟨some r, []⟩ := by cases who <;> rfl

end Sys2Proof.Machine
end

