-- ==== Sys2Proof/Laws/Memory.lean ====
section
/-! SUPPORT. Packet memory and the RX buffer: what is read after a write, and that every write keeps the canonical
form. -/

namespace Sys2Proof.Machine

@[simp] theorem Memory.lookup_store_same (m : Memory) (a : Nat) (b : Byte) :
    (m.store a b).lookup a = some b := by
  induction m with
  | nil => simp [Memory.store, Memory.lookup]
  | cons c m ih =>
    obtain ⟨k, d⟩ := c
    simp only [Memory.store]
    split
    · simp [Memory.lookup]
    · split
      · simp [Memory.lookup]
      · rename_i h
        simp [Memory.lookup, Ne.symm h, ih]

theorem Memory.lookup_store_other (m : Memory) {a a' : Nat} (b : Byte) (h : a' ≠ a) :
    (m.store a b).lookup a' = m.lookup a' := by
  induction m with
  | nil => simp [Memory.store, Memory.lookup, Ne.symm h]
  | cons c m ih =>
    obtain ⟨k, d⟩ := c
    simp only [Memory.store]
    split
    · simp [Memory.lookup, Ne.symm h]
    · split
      · rename_i hk
        subst hk
        simp [Memory.lookup, Ne.symm h]
      · simp only [Memory.lookup, ih]

/-- A byte outside a write reads as before. -/
theorem Memory.lookup_storeBytes_outside (m : Memory) (bs : List Byte) (a a' : Nat)
    (h : a' < a ∨ a + bs.length ≤ a') : (m.storeBytes a bs).lookup a' = m.lookup a' := by
  induction bs generalizing m a with
  | nil => rfl
  | cons b bs ih =>
    simp only [List.length_cons] at h
    rw [Memory.storeBytes, ih _ _ (by omega), Memory.lookup_store_other _ _ (by omega)]

/-- A byte inside a write reads as written. -/
theorem Memory.lookup_storeBytes_inside (m : Memory) (bs : List Byte) (a k : Nat) (h : k < bs.length) :
    (m.storeBytes a bs).lookup (a + k) = bs[k]? := by
  induction bs generalizing m a k with
  | nil => simp at h
  | cons b bs ih =>
    rw [Memory.storeBytes]
    cases k with
    | zero =>
      rw [Memory.lookup_storeBytes_outside _ _ _ _ (by omega)]
      simp
    | succ k =>
      have := ih (m.store a b) (a + 1) k (by simpa using h)
      simpa [Nat.add_assoc, Nat.add_comm 1 k] using this

theorem Memory.wf_nil : Memory.wf [] := List.Pairwise.nil

/-- The addresses of a memory after a write of one byte: those before, and the one written. -/
theorem Memory.keys_store (m : Memory) (a : Nat) (b : Byte) (k : Nat)
    (h : k ∈ (m.store a b).map Prod.fst) : k = a ∨ k ∈ m.map Prod.fst := by
  induction m with
  | nil => simpa [Memory.store] using h
  | cons c m ih =>
    obtain ⟨j, d⟩ := c
    simp only [Memory.store] at h
    split at h
    · simpa using h
    · split at h
      · rename_i hj
        subst hj
        simp only [List.map_cons, List.mem_cons] at h ⊢
        tauto
      · simp only [List.map_cons, List.mem_cons] at h ⊢
        rcases h with h | h
        · exact .inr (.inl h)
        · rcases ih h with h | h
          · exact .inl h
          · exact .inr (.inr h)

/-- A write of one byte keeps the canonical form. -/
theorem Memory.wf_store {m : Memory} (h : m.wf) (a : Nat) (b : Byte) : (m.store a b).wf := by
  induction m with
  | nil => simp [Memory.store, Memory.wf]
  | cons c m ih =>
    obtain ⟨j, d⟩ := c
    simp only [Memory.wf, List.map_cons, List.pairwise_cons] at h
    obtain ⟨hj, hm⟩ := h
    simp only [Memory.store]
    split
    · rename_i hlt
      simp only [Memory.wf, List.map_cons, List.pairwise_cons, List.mem_cons]
      refine ⟨?_, hj, hm⟩
      rintro k (rfl | hk)
      · exact hlt
      · exact Nat.lt_trans hlt (hj k hk)
    · split
      · rename_i ha
        subst ha
        simpa only [Memory.wf, List.map_cons, List.pairwise_cons] using ⟨hj, hm⟩
      · rename_i hlt hne
        simp only [Memory.wf, List.map_cons, List.pairwise_cons]
        refine ⟨fun k hk => ?_, ih hm⟩
        rcases Memory.keys_store m a b k hk with rfl | hk
        · omega
        · exact hj k hk

/-- A write of any number of bytes keeps the canonical form. -/
theorem Memory.wf_storeBytes {m : Memory} (h : m.wf) (a : Nat) (bs : List Byte) :
    (m.storeBytes a bs).wf := by
  induction bs generalizing m a with
  | nil => exact h
  | cons b bs ih => exact ih (Memory.wf_store h a b) (a + 1)

/-- In canonical form, equal contents are equal data (log 10). -/
theorem Memory.ext_of_wf {m m' : Memory} (h : m.wf) (h' : m'.wf)
    (hl : ∀ a, m.lookup a = m'.lookup a) : m = m' := by
  have none_below : ∀ {m : Memory} {a : Nat}, (∀ k ∈ m.map Prod.fst, a < k) → m.lookup a = none := by
    intro m a hk
    induction m with
    | nil => rfl
    | cons c m ih =>
      obtain ⟨j, d⟩ := c
      have hj : a < j := hk j (by simp)
      rw [Memory.lookup, if_neg (by omega)]
      exact ih fun k hm => hk k (by simp [hm])
  induction m generalizing m' with
  | nil =>
    cases m' with
    | nil => rfl
    | cons c m' =>
      obtain ⟨j, d⟩ := c
      have := hl j
      simp [Memory.lookup] at this
  | cons c m ih =>
    obtain ⟨j, d⟩ := c
    cases m' with
    | nil =>
      have := hl j
      simp [Memory.lookup] at this
    | cons c' m' =>
      obtain ⟨j', d'⟩ := c'
      simp only [Memory.wf, List.map_cons, List.pairwise_cons] at h h'
      have hjj : j = j' := by
        rcases Nat.lt_trichotomy j j' with hlt | heq | hgt
        · have := hl j
          rw [Memory.lookup, if_pos rfl, Memory.lookup, if_neg (by omega),
            none_below fun k hk => Nat.lt_trans hlt (h'.1 k hk)] at this
          exact absurd this (by simp)
        · exact heq
        · have := hl j'
          rw [Memory.lookup, if_neg (by omega), none_below fun k hk => Nat.lt_trans hgt (h.1 k hk),
            Memory.lookup, if_pos rfl] at this
          exact absurd this (by simp)
      subst hjj
      have hdd : d = d' := by simpa [Memory.lookup] using hl j
      subst hdd
      congr 1
      refine ih h.2 h'.2 fun a => ?_
      by_cases ha : j = a
      · subst ha
        rw [none_below h.1, none_below h'.1]
      · simpa [Memory.lookup, ha] using hl a

/-! The memory primitives (00_scope.md R15). -/

/-- `MemWrite(PMA, ...)` that does not fault changes packet memory alone. -/
theorem State.writePma_ok {s t : State} {a : Nat} {bs : List Byte} (h : s.writePma a bs = .ok t) :
    a + bs.length ≤ s.params.pmaSize ∧ t = s.setPma (s.pma.storeBytes a bs) := by
  unfold State.writePma at h
  split at h
  · cases h
  · exact ⟨by omega, by cases h; rfl⟩

/-- `MemWrite(RXBUF, ...)` that does not fault changes the RX buffer alone. -/
theorem State.writeRxBuf_ok {s t : State} {a : Nat} {bs : List Byte} (h : s.writeRxBuf a bs = .ok t) :
    a + bs.length ≤ s.params.rxCap ∧ t = s.setRxBuf (s.rxBuf.storeBytes a bs) := by
  unfold State.writeRxBuf at h
  split at h
  · cases h
  · exact ⟨by omega, by cases h; rfl⟩

/-- `MemRead(PMA, ...)` that does not fault gives the bytes in offset order. -/
theorem State.readPma_ok {s : State} {a n : Nat} {bs : List Byte} (h : s.readPma a n = .ok bs) :
    a + n ≤ s.params.pmaSize ∧ bs = (List.range n).map fun k => s.pmaByte (a + k) := by
  unfold State.readPma at h
  split at h
  · cases h
  · exact ⟨by omega, by cases h; rfl⟩

/-- `MemRead(RXBUF, ...)` that does not fault gives the bytes in offset order. -/
theorem State.readRxBuf_ok {s : State} {a n : Nat} {bs : List Byte} (h : s.readRxBuf a n = .ok bs) :
    a + n ≤ s.params.rxCap ∧ bs = (List.range n).map fun k => s.rxBufByte (a + k) := by
  unfold State.readRxBuf at h
  split at h
  · cases h
  · exact ⟨by omega, by cases h; rfl⟩

/-- A byte of packet memory after a write of `bs` at `a`. -/
theorem State.pmaByte_storeBytes (s : State) (a : Nat) (bs : List Byte) (a' : Nat) :
    (s.setPma (s.pma.storeBytes a bs)).pmaByte a' =
      if h : a ≤ a' ∧ a' < a + bs.length then bs[a' - a]'(by omega) else s.pmaByte a' := by
  split
  · rename_i h
    have := Memory.lookup_storeBytes_inside s.pma bs a (a' - a) (by omega)
    rw [show a + (a' - a) = a' by omega, List.getElem?_eq_getElem (by omega)] at this
    simp [State.pmaByte, State.setPma, this]
  · rename_i h
    simp [State.pmaByte, State.setPma, Memory.lookup_storeBytes_outside s.pma bs a a' (by omega)]

/-- A byte of the RX buffer after a write of `bs` at `a`. -/
theorem State.rxBufByte_storeBytes (s : State) (a : Nat) (bs : List Byte) (a' : Nat) :
    (s.setRxBuf (s.rxBuf.storeBytes a bs)).rxBufByte a' =
      if h : a ≤ a' ∧ a' < a + bs.length then bs[a' - a]'(by omega) else s.rxBufByte a' := by
  split
  · rename_i h
    have := Memory.lookup_storeBytes_inside s.rxBuf bs a (a' - a) (by omega)
    rw [show a + (a' - a) = a' by omega, List.getElem?_eq_getElem (by omega)] at this
    simp [State.rxBufByte, State.setRxBuf, this]
  · rename_i h
    simp [State.rxBufByte, State.setRxBuf, Memory.lookup_storeBytes_outside s.rxBuf bs a a' (by omega)]

end Sys2Proof.Machine
end

