-- ==== Sys2Proof/Laws/Registers.lean ====
section
/-! SUPPORT. Endpoint registers and descriptors: what is read after a write; the fields of a register under the write
rule and under the words the commands write. -/

namespace Sys2Proof.Machine

theorem EpNum.toNat_inj {a b : EpNum} : a.toNat = b.toNat ↔ a = b := BitVec.toNat_inj

@[simp] theorem State.eprAt_setEpr_same (s : State) (ep : EpNum) (v : Half) :
    (s.setEpr ep v).eprAt ep = v := by
  simp [State.setEpr, State.eprAt]

theorem State.eprAt_setEpr_other (s : State) {ep e : EpNum} (v : Half) (h : e ≠ ep) :
    (s.setEpr ep v).eprAt e = s.eprAt e := by
  have : ep.toNat ≠ e.toNat := fun hn => h (BitVec.eq_of_toNat_eq hn).symm
  simp [State.setEpr, State.eprAt, this]

@[simp] theorem State.bdtAt_setBdt_same (s : State) (ep : EpNum) (d : Descriptor) :
    (s.setBdt ep d).bdtAt ep = d := by
  simp [State.setBdt, State.bdtAt]

theorem State.bdtAt_setBdt_other (s : State) {ep e : EpNum} (d : Descriptor) (h : e ≠ ep) :
    (s.setBdt ep d).bdtAt e = s.bdtAt e := by
  have : ep.toNat ≠ e.toNat := fun hn => h (BitVec.eq_of_toNat_eq hn).symm
  simp [State.setBdt, State.bdtAt, this]

/-- Replacing a register by what it holds changes nothing. -/
@[simp] theorem State.setEpr_eprAt (s : State) (ep : EpNum) : s.setEpr ep (s.eprAt ep) = s := by
  simp [State.setEpr, State.eprAt]

@[simp] theorem State.setEpr_setEpr (s : State) (ep : EpNum) (v w : Half) :
    (s.setEpr ep v).setEpr ep w = s.setEpr ep w := by
  simp [State.setEpr]

/-- The register after a bus write (10_state.md R38). -/
@[simp] theorem State.eprAt_eprWrite_same (s : State) (ep : EpNum) (w : Half) :
    (s.eprWrite ep w).eprAt ep = eprWritten (s.eprAt ep) w := by
  simp [State.eprWrite]

theorem State.eprAt_eprWrite_other (s : State) {ep e : EpNum} (w : Half) (h : e ≠ ep) :
    (s.eprWrite ep w).eprAt e = s.eprAt e := s.eprAt_setEpr_other _ h

/-! The code tables (30_encoding.md R110 to R114) have no gaps. -/

@[simp] theorem EpStatus.ofCode_code (st : EpStatus) : EpStatus.ofCode st.code = st := by cases st <;> rfl
@[simp] theorem EpType.ofCode_code (ty : EpType) : EpType.ofCode ty.code = ty := by cases ty <;> rfl
@[simp] theorem DispatchSource.ofCode_code (src : DispatchSource) :
    DispatchSource.ofCode src.code = some src := by cases src <;> rfl

theorem EpStatus.code_ofCode (c : BitVec 2) : (EpStatus.ofCode c).code = c := by
  revert c; decide

theorem EpType.code_ofCode (c : BitVec 2) : (EpType.ofCode c).code = c := by
  revert c; decide

theorem DispatchSource.code_ofCode {c : BitVec 2} {src : DispatchSource}
    (h : DispatchSource.ofCode c = some src) : src.code = c := by
  revert h; revert c; cases src <;> decide

/-! Bits of a written register (10_state.md R38), one lemma per bit of the result. -/

/-- Bit `i` of the written register, by the access kind of bit `i`: toggle, read-write, rc_w0, read-only. -/
theorem eprWritten_getLsbD (o w : Half) (i : Nat) :
    (eprWritten o w).getLsbD i =
      (((o.getLsbD i ^^ w.getLsbD i) && (0x7070#16).getLsbD i)
        || (w.getLsbD i && (0x070F#16).getLsbD i)
        || (o.getLsbD i && w.getLsbD i && (0x8080#16).getLsbD i)
        || (o.getLsbD i && (0x0800#16).getLsbD i)) := by
  simp [eprWritten]

end Sys2Proof.Machine
end

