-- ==== Sys2Proof/Laws/Elem.lean ====
section
/-! SUPPORT. Everything a command can do to the state, said once: the elementary changes (Elem), and that every command of
every agent, with whatever falls between its lines, is a sequence of them. An invariant that every elementary change keeps
is kept by every command, and so by every step (Laws/Steps.lean). -/

namespace Sys2Proof.Machine

/-- One elementary change of the state. -/
inductive Elem : State → State → Prop where
  | busWrite (s : State) (ep : EpNum) (w : Half) : Elem s (s.eprWrite ep w)
  | outAccepted (s : State) (ep : EpNum) (autoNak : Bool) :
      Elem s (s.setEpr ep (afterOutAccepted autoNak (s.eprAt ep)))
  | inSent (s : State) (ep : EpNum) : Elem s (s.setEpr ep (afterInSent (s.eprAt ep)))
  | descriptor (s : State) (ep : EpNum) (d : Descriptor) : Elem s (s.setBdt ep d)
  | pmaBytes (s : State) (a : Nat) (bs : List Byte) : Elem s (s.setPma (s.pma.storeBytes a bs))
  | rxBufBytes (s : State) (a : Nat) (bs : List Byte) : Elem s (s.setRxBuf (s.rxBuf.storeBytes a bs))
  | rxUnread (s : State) (n : Nat) : Elem s (s.setRxUnread n)
  | rxOffset (s : State) (n : Nat) : Elem s (s.setRxOffset n)
  | txPending (s : State) (n : Nat) : Elem s (s.setTxPending n)
  | lineState (s : State) (v : Half) : Elem s (setLineState v s)
  | handlerEntry (s : State) : Elem s s.enterHandler
  | handlerReturn (s : State) : Elem s s.leaveHandler
  | setupPending (s : State) (p : Option SetupPacket) : Elem s (s.setSetupPending p)
  | wireLog (s : State) (r : WireRecord) : Elem s (s.log r)
  | raised (s : State) (who : Agent) (f : FaultInfo) : Elem s (s.raise who f)
  | refused (s : State) (who : Agent) (r : RefusalInfo) : Elem s (s.refuse who r)
  | port (s : State) (who : Agent) (p : Port) : Elem s (s.setPort who p)
  | gaps (s : State) (tg : List (List Between)) (ig : List (List Quiet)) :
      Elem s (s.setGaps tg ig)
  | reset (s : State) : Elem s s.doReset

/-- Any number of elementary changes. -/
abbrev Elems : State → State → Prop := Relation.ReflTransGen Elem

/-- However the command stands, it got there by elementary changes from `s`. -/
def Flow.Within (s : State) : Flow → Prop
  | .on t => Elems s t
  | .off t => Elems s t
  | .stuck _ => True

theorem Elem.single {s t : State} (h : Elem s t) : Elems s t := Relation.ReflTransGen.single h

theorem Flow.within_on {s t : State} (h : Elems s t) : (Flow.on t).Within s := h
theorem Flow.within_off {s t : State} (h : Elems s t) : (Flow.off t).Within s := h

/-- Changes before a flow come before its own. -/
theorem Flow.Within.after {s t : State} {x : Flow} (h : Elems s t) (hx : x.Within t) : x.Within s := by
  cases x with
  | on u => exact h.trans hx
  | off u => exact h.trans hx
  | stuck f => trivial

theorem Flow.Within.andThen {s : State} {x : Flow} {k : State → Flow} (hx : x.Within s)
    (hk : ∀ t, (k t).Within t) : (x.andThen k).Within s := by
  cases x with
  | on t => exact Flow.Within.after hx (hk t)
  | off t => exact hx
  | stuck f => trivial

theorem Flow.Within.orRaise {α : Type} {s : State} {who : Agent} {x : Except FaultInfo α} {k : α → Flow}
    (hk : ∀ a, x = .ok a → (k a).Within s) : (Flow.orRaise who s x k).Within s := by
  cases x with
  | ok a => exact hk a rfl
  | error f => exact (Elem.raised s who f).single

theorem Flow.Within.rejoin {s : State} {x : Flow} (h : x.Within s) : x.rejoin.Within s := by
  cases x <;> exact h

/-- What falls between lines changes the state by elementary changes. -/
abbrev Gap.Elementary (gap : Gap) : Prop := ∀ s, (gap s).Within s

theorem Elems.ret (s : State) (who : Agent) (r : Result) : Elems s (s.ret who r) :=
  (Elem.port s who _).single

theorem Elems.outData (s : State) (who : Agent) (bs : List Byte) : Elems s (s.outData who bs) :=
  (Elem.port s who _).single

theorem Elems.clearPort (s : State) (who : Agent) : Elems s (s.clearPort who) :=
  (Elem.port s who _).single

/-! ## The lines of each command -/

section
variable {gap : Gap} (hg : Gap.Elementary gap)
include hg

theorem epSetRxStatusLines_within (ep : EpNum) (st : EpStatus) (s : State) :
    (epSetRxStatusLines ep st gap s).Within s :=
  (hg s).andThen fun t => (Elem.busWrite t ep _).single

theorem epSetTxStatusLines_within (ep : EpNum) (st : EpStatus) (s : State) :
    (epSetTxStatusLines ep st gap s).Within s :=
  (hg s).andThen fun t => (Elem.busWrite t ep _).single

theorem epSetTypeLines_within (ep : EpNum) (ty : EpType) (s : State) :
    (epSetTypeLines ep ty gap s).Within s :=
  (hg s).andThen fun t => (Elem.busWrite t ep _).single

theorem rxCompleteLines_within (who : Agent) (s : State) : (rxCompleteLines who gap s).Within s := by
  unfold rxCompleteLines
  split
  · exact (Elem.raised s who _).single
  · refine (hg s).andThen fun t => (epSetRxStatusLines_within hg _ _ t).andThen fun t => (hg t).andThen fun t => ?_
    split
    · exact (Elem.raised t who _).single
    · refine Flow.Within.orRaise fun bytes _ => Flow.Within.orRaise fun u hu => ?_
      obtain ⟨-, rfl⟩ := State.writeRxBuf_ok hu
      exact Flow.Within.after (Elem.rxBufBytes t _ _).single
        ((hg _).andThen fun t => (Elem.rxUnread t (s.bdtAt s.params.epOut).rxCount.toNat).single)

theorem rearmLines_within (n : Nat) (who : Agent) (s : State) : (rearmLines n who gap s).Within s := by
  refine Flow.Within.after (Elem.rxOffset s 0).single ((hg _).andThen fun t => ?_)
  refine Flow.Within.after (Elem.descriptor t _ _).single ((hg _).andThen fun t => ?_)
  exact (epSetRxStatusLines_within hg _ _ t).andThen fun t => Elems.ret t who _

theorem rxDrainBody_within (maxLen : Half) (who : Agent) (data : List Byte) (s : State) :
    (rxDrainBody maxLen who gap data s).Within s := by
  unfold rxDrainBody
  dsimp only
  split
  · split
    · exact (hg s).andThen fun t => rearmLines_within hg _ who t
    · exact Elems.ret s who _
  · refine (hg s).andThen fun t => Flow.Within.orRaise fun bytes _ => ?_
    refine Flow.Within.after (Elems.outData t who bytes) ((hg _).andThen fun t => ?_)
    refine Flow.Within.after (Elem.rxOffset t _).single ((hg _).andThen fun t => ?_)
    refine Flow.Within.after (Elem.rxUnread t (t.rxUnread - min maxLen.toNat s.rxUnread)).single ?_
    split
    · exact Elems.ret _ who _
    · exact (hg _).andThen fun t => rearmLines_within hg _ who t

theorem txSubmitBody_within (len : Half) (who : Agent) (data : List Byte) (s : State) :
    (txSubmitBody len who gap data s).Within s := by
  unfold txSubmitBody
  dsimp only
  split
  · exact Elems.ret s who _
  · refine (hg s).andThen fun t => Flow.Within.orRaise fun u hu => ?_
    obtain ⟨-, rfl⟩ := State.writePma_ok hu
    refine Flow.Within.after (Elem.pmaBytes t _ _).single ((hg _).andThen fun t => ?_)
    refine Flow.Within.after (Elem.descriptor t _ _).single ((hg _).andThen fun t => ?_)
    refine Flow.Within.after (Elem.txPending t _).single ((hg _).andThen fun t => ?_)
    exact (epSetTxStatusLines_within hg _ _ t).andThen fun t => Elems.ret t who _

omit hg in
theorem classRequestLine_elems (p : SetupPacket) (s : State) : Elems s (classRequestLine p s) := by
  unfold classRequestLine
  split
  · exact (Elem.lineState s _).single
  · exact .refl

theorem callbackLines_within (ep : EpNum) (src : DispatchSource) (who : Agent) (s : State) :
    (callbackLines ep src who gap s).Within s := by
  unfold callbackLines
  cases src with
  | rx =>
    dsimp only
    split
    · exact rxCompleteLines_within hg who s
    · exact Flow.within_on .refl
  | tx =>
    dsimp only
    split
    · exact (Elem.txPending s 0).single
    · exact Flow.within_on .refl
  | setup => exact Flow.within_on .refl

omit hg in
theorem setupLine_within (s : State) : (setupLine s).Within s := by
  unfold setupLine
  split
  · trivial
  · rename_i p _
    exact ((Elem.setupPending s none).single.trans (classRequestLine_elems p _)).tail (Elem.wireLog _ _)

theorem handlerLines_within (ep : EpNum) (src : DispatchSource) (r : Half) (who : Agent) (s : State) :
    (handlerLines ep src r who gap s).Within s := by
  unfold handlerLines
  cases src with
  | rx =>
    exact Flow.Within.after (Elem.busWrite s ep _).single
      ((hg _).andThen fun t => callbackLines_within hg ep .rx who t)
  | tx =>
    exact Flow.Within.after (Elem.busWrite s ep _).single
      ((hg _).andThen fun t => callbackLines_within hg ep .tx who t)
  | setup => exact setupLine_within s

theorem intDispatchBody_within (ep : EpNum) (src : DispatchSource) (who : Agent) (data : List Byte)
    (s : State) : (intDispatchBody ep src who gap data s).Within s := by
  unfold intDispatchBody
  split
  · trivial
  · refine Flow.Within.after (Elem.handlerEntry s).single ((hg _).andThen fun t => ?_)
    refine (handlerLines_within hg ep src _ who t).andThen fun t => (hg t).andThen fun t => ?_
    exact (Elem.handlerReturn t).single.trans (Elems.ret _ who _)

omit hg in
theorem hostOutBody_within (ep : EpNum) (len : Half) (who : Agent) (data : List Byte) (s : State) :
    (hostOutBody ep len who gap data s).Within s := by
  unfold hostOutBody
  split
  · exact (Elem.wireLog s _).single.trans (Elems.ret _ who _)
  · exact (Elem.wireLog s _).single.trans (Elems.ret _ who _)
  · exact (Elem.wireLog s _).single.trans (Elems.ret _ who _)
  · split
    · trivial
    · refine Flow.Within.orRaise fun u hu => ?_
      obtain ⟨-, rfl⟩ := State.writePma_ok hu
      exact (((Elem.pmaBytes s _ _).single.tail (Elem.descriptor _ ep _)).tail
        (Elem.outAccepted _ ep _)).tail (Elem.wireLog _ _) |>.trans (Elems.ret _ who _)

omit hg in
theorem hostInBody_within (ep : EpNum) (who : Agent) (data : List Byte) (s : State) :
    (hostInBody ep who gap data s).Within s := by
  unfold hostInBody
  split
  · exact (Elem.wireLog s _).single.trans (Elems.ret _ who _)
  · exact (Elem.wireLog s _).single.trans (Elems.ret _ who _)
  · exact (Elem.wireLog s _).single.trans (Elems.ret _ who _)
  · exact Flow.Within.orRaise fun bytes _ =>
      ((Elem.inSent s ep).single.tail (Elem.wireLog _ _)).trans (Elems.ret _ who _)

omit hg in
theorem hostSetupBody_within (who : Agent) (data : List Byte) (s : State) :
    (hostSetupBody who gap data s).Within s := by
  unfold hostSetupBody
  split
  · trivial
  · exact (Elem.setupPending s _).single.trans (Elems.ret _ who _)

/-- Every command's lines are elementary changes, if what falls between them is. -/
theorem bodyOf_within (i : Instr) (who : Agent) (data : List Byte) (s : State) :
    (bodyOf i who gap data s).Within s := by
  cases i with
  | epSetRxStatus ep st => exact (epSetRxStatusLines_within hg ep st s).andThen fun t => Elems.ret t who _
  | epSetTxStatus ep st => exact (epSetTxStatusLines_within hg ep st s).andThen fun t => Elems.ret t who _
  | epSetType ep ty => exact (epSetTypeLines_within hg ep ty s).andThen fun t => Elems.ret t who _
  | rxComplete => exact (rxCompleteLines_within hg who s).andThen fun t => Elems.ret t who _
  | rxAvailable => exact Elems.ret s who _
  | rxDrain maxLen => exact rxDrainBody_within hg maxLen who data s
  | txSubmit len => exact txSubmitBody_within hg len who data s
  | txComplete => exact (Elem.txPending s 0).single.trans (Elems.ret _ who _)
  | txPending => exact Elems.ret s who _
  | ctrlSetLineState v => exact (Elem.lineState s v).single.trans (Elems.ret _ who _)
  | dtrAsserted => exact Elems.ret s who _
  | rtsAsserted => exact Elems.ret s who _
  | resetStateRead => exact Elems.ret s who _
  | classRequest => exact (classRequestLine_elems _ s).trans (Elems.ret _ who _)
  | enable => exact (Elem.refused s who _).single
  | disable => exact (Elem.refused s who _).single
  | hostOut ep len => exact hostOutBody_within (gap := gap) ep len who data s
  | hostIn ep => exact hostInBody_within (gap := gap) ep who data s
  | hostSetup => exact hostSetupBody_within (gap := gap) who data s
  | intDispatch ep src => exact intDispatchBody_within hg ep src who data s

theorem runInstr_within (who : Agent) (data : List Byte) (i : Instr) (s : State) :
    (runInstr who gap data i s).Within s := by
  unfold runInstr
  split
  · exact (Elem.refused s who _).single
  · exact Flow.Within.after (Elems.clearPort s who) (bodyOf_within hg i who data _)

theorem runCommand_within (who : Agent) (c : Command) (s : State) : (runCommand who gap c s).Within s := by
  unfold runCommand
  split
  · trivial
  · split
    · exact (Elem.refused s who _).single
    · exact runInstr_within hg who _ _ s

end

/-! ## What falls between the lines -/

theorem gapNone_elementary : Gap.Elementary Flow.on := fun _ => Flow.within_on .refl

theorem quietMove_within (q : Quiet) (s : State) : (quietMove q s).Within s := by
  cases q with
  | wire c => exact (runCommand_within gapNone_elementary .wire c s).rejoin
  | reset => exact (Elem.reset s).single

theorem quietMoves_within (qs : List Quiet) (s : State) : (quietMoves qs s).Within s := by
  induction qs generalizing s with
  | nil => exact Flow.within_on .refl
  | cons q qs ih => exact (quietMove_within q s).andThen ih

theorem irqGap_elementary : Gap.Elementary irqGap := by
  intro s
  unfold irqGap
  split
  · exact Flow.within_on .refl
  · exact Flow.Within.after (Elem.gaps s s.taskGaps _).single (quietMoves_within _ _)

theorem Flow.Within.halt {s : State} {x : Flow} (h : x.Within s) : x.halt.Within s := by
  cases x <;> exact h

theorem irqGapUpTo_elementary : Gap.Elementary irqGapUpTo := by
  intro s
  unfold irqGapUpTo
  split
  · exact Flow.within_off .refl
  · exact Flow.Within.after (Elem.gaps s s.taskGaps _).single (quietMoves_within _ _).halt
  · exact Flow.Within.after (Elem.gaps s s.taskGaps _).single (quietMoves_within _ _)

theorem irqMove_within (c : Command) (gaps : List (List Quiet)) (s : State) :
    (irqMove c gaps s).Within s := by
  have h : (runCommand .irq irqGap c (s.setGaps s.taskGaps gaps)).Within s :=
    Flow.Within.after (Elem.gaps s s.taskGaps gaps).single (runCommand_within irqGap_elementary .irq c _)
  have close : ∀ t, Elems s t →
      (if t.resets ≠ s.resets ∨ t.irqActive = true
        then Flow.off (t.setGaps t.taskGaps []) else Flow.on (t.setGaps t.taskGaps [])).Within s := by
    intro t ht
    split
    · exact ht.tail (Elem.gaps t t.taskGaps [])
    · exact ht.tail (Elem.gaps t t.taskGaps [])
  unfold irqMove
  cases hx : runCommand .irq irqGap c (s.setGaps s.taskGaps gaps) with
  | on t => rw [hx] at h; exact close t h
  | off t => rw [hx] at h; exact close t h
  | stuck f => trivial

theorem betweenMove_within (b : Between) (s : State) : (betweenMove b s).Within s := by
  cases b with
  | quiet q => exact quietMove_within q s
  | irq c gaps => exact irqMove_within c gaps s

theorem betweenMoves_within (bs : List Between) (s : State) : (betweenMoves bs s).Within s := by
  induction bs generalizing s with
  | nil => exact Flow.within_on .refl
  | cons b bs ih => exact (betweenMove_within b s).andThen ih

theorem taskGap_elementary : Gap.Elementary taskGap := by
  intro s
  unfold taskGap
  split
  · exact Flow.within_on .refl
  · exact Flow.Within.after (Elem.gaps s _ s.irqGaps).single (betweenMoves_within _ _)

theorem gapOf_elementary (who : Agent) : Gap.Elementary (gapOf who) := by
  cases who with
  | task => exact taskGap_elementary
  | irq => exact irqGap_elementary
  | wire => exact gapNone_elementary

/-- With no move listed, nothing falls between the lines. -/
theorem gapOf_undisturbed {s : State} (h : s.Undisturbed) (who : Agent) : gapOf who s = .on s := by
  cases who with
  | task => simp [gapOf, taskGap, h.1]
  | irq => simp [gapOf, irqGap, h.2]
  | wire => rfl

end Sys2Proof.Machine
end

