-- ==== Sys2Proof/Laws/Encoding.lean ====
section
/-! SUPPORT. The fields of a command word: a word made of fields has those fields, and a word is made of its fields. -/

namespace Sys2Proof

@[simp] theorem Fields.ofWord_toWord (f : Fields) : Fields.ofWord f.toWord = f := by
  obtain ⟨opc, ep, sel, res, imm⟩ := f
  simp only [Fields.ofWord, Fields.toWord, Fields.mk.injEq]
  refine ⟨?_, ?_, ?_, ?_, ?_⟩ <;>
  · ext i hi
    simp only [BitVec.getElem_extractLsb', BitVec.getLsbD_append]
    interval_cases i <;> simp

@[simp] theorem Fields.toWord_ofWord (w : CmdWord) : (Fields.ofWord w).toWord = w := by
  apply BitVec.eq_of_getLsbD_eq
  intro i hi
  simp only [Fields.ofWord, Fields.toWord, BitVec.getLsbD_append, BitVec.getLsbD_extractLsb']
  interval_cases i <;> simp

/-- Two words with the same fields are the same word. -/
theorem Fields.ofWord_inj {w v : CmdWord} (h : Fields.ofWord w = Fields.ofWord v) : w = v := by
  rw [← Fields.toWord_ofWord w, h, Fields.toWord_ofWord]

/-- Decoding an encoded command decodes its fields. -/
theorem decode_encode_eq (i : Instr) : decode (encode i) = decodeFields i.fields := by
  simp [decode, encode]

end Sys2Proof
end

