-- ==== Sys2Proof/Laws/Steps.lean ====
section
/-! SUPPORT. What a meaning, a turn and a step can do: the meaning of every command is one form, a refused command changes
only its mark, and a step is a sequence of changes (Change), so that an invariant which each keeps is kept by every step. -/

namespace Sys2Proof.Machine

/-- Every meaning is the issuing of the command's lines. -/
theorem exec_eq_issue (i : Instr) (s : State) : exec i s = issue i (bodyOf i) s := by
  cases i <;> rfl

/-- A command that is not refused runs its lines. -/
theorem exec_of_admits {i : Instr} {s : State} (h : s.Admits i) :
    exec i s = (bodyOf i s.issuer (gapOf s.issuer) s.inData (s.clearPort s.issuer)).outcome := by
  have h' : admission s.params s.issuer s.inData i = none := h
  rw [exec_eq_issue, issue, h']

/-- A command that is refused sets the mark and stops its agent, and does nothing else. -/
theorem exec_of_refused {i : Instr} {s : State} {r : RefusalInfo}
    (h : admission s.params s.issuer s.inData i = some r) :
    exec i s = .next (s.refuse s.issuer r).dropGaps := by
  rw [exec_eq_issue, issue, h]

/-- No meaning answers with a refusal of the host's kind. -/
theorem exec_ne_refused (i : Instr) (s : State) (r : Refusal) : exec i s ≠ .refused r := by
  rw [exec_eq_issue, issue]
  split
  · simp
  · cases bodyOf i s.issuer (gapOf s.issuer) s.inData (s.clearPort s.issuer) <;> simp [Flow.outcome]

/-- A command's next state is reached by elementary changes. -/
theorem exec_elems {i : Instr} {s t : State} (h : exec i s = .next t) : Elems s t := by
  rw [exec_eq_issue, issue] at h
  split at h
  · cases h
    exact (Elem.refused s _ _).single.tail (Elem.gaps _ [] [])
  · have hb := Flow.Within.after (Elems.clearPort s s.issuer)
      (bodyOf_within (gapOf_elementary s.issuer) i s.issuer s.inData (s.clearPort s.issuer))
    cases hx : bodyOf i s.issuer (gapOf s.issuer) s.inData (s.clearPort s.issuer) with
    | on u =>
      rw [hx] at h hb
      cases h
      exact hb.tail (Elem.gaps _ [] [])
    | off u =>
      rw [hx] at h hb
      cases h
      exact hb.tail (Elem.gaps _ [] [])
    | stuck f => rw [hx] at h; cases h

/-- A step takes the schedule's first turn. -/
theorem step_of_turn {s : State} {tn : Turn} {rest : List Turn} (h : s.schedule = tn :: rest) :
    step s = takeTurn tn { s with schedule := rest } := by
  rw [step, h]

/-- An agent that may step takes its turn. -/
theorem agentTurn_of_mayStep {who : Agent} {s : State} (h : s.mayStep who = none)
    (k : Host.Outcome State Fault Refusal) : agentTurn who s k = k := by
  rw [agentTurn, h]

/-- TASK's turn past the end of its program. -/
theorem taskTurn_over {s : State} (h : s.nextItem = none) (gaps : List (List Between)) :
    taskTurn gaps s = .fault .programOver := by
  rw [taskTurn, h]

/-- One change that a step can make: an elementary change of a command, or what the turn itself does. -/
inductive Change : State → State → Prop where
  | elem {s t : State} (h : Elem s t) : Change s t
  | latch (s : State) (who : Agent) (data : List Byte) (tg : List (List Between))
      (ig : List (List Quiet)) : Change s (s.latch who data tg ig)
  | advance (s : State) (n : Nat) : Change s (s.setTaskNext n)
  | schedule (s : State) (ts : List Turn) : Change s { s with schedule := ts }
  | configure (s : State) (legal : s.params.Legal) (fresh : s.fresh = true) : Change s s.configure

/-- Any number of changes. -/
abbrev Changes : State → State → Prop := Relation.ReflTransGen Change

theorem Elems.changes {s t : State} (h : Elems s t) : Changes s t := by
  induction h with
  | refl => exact .refl
  | tail _ h ih => exact ih.tail (.elem h)

theorem issueWord_changes {who : Agent} {c : Command} {tg : List (List Between)} {ig : List (List Quiet)}
    {s t : State} (h : issueWord who c tg ig s = .next t) : Changes s t := by
  have hl : Changes s (s.latch who c.data tg ig) := .single (.latch s who c.data tg ig)
  unfold issueWord at h
  split at h
  · cases h
    exact (hl.tail (.elem (Elem.refused _ who _))).tail (.elem (Elem.gaps _ [] []))
  · exact hl.trans (exec_elems h).changes

theorem putcAfter_changes (s : State) : Changes s (putcAfter s) := by
  unfold putcAfter
  split
  · exact .single (.elem (Elem.port s .task _))
  · exact (Relation.ReflTransGen.single (Change.advance s _)).trans (Elems.ret _ .task .unit).changes
  · exact .refl

theorem taskTurn_changes {gaps : List (List Between)} {s t : State} (h : taskTurn gaps s = .next t) :
    Changes s t := by
  unfold taskTurn at h
  split at h
  · cases h
  · exact (Relation.ReflTransGen.single (Change.advance s _)).trans (issueWord_changes h)
  · split at h
    · rename_i u hu
      cases h
      exact (issueWord_changes hu).trans (putcAfter_changes u)
    · cases h
    · cases h

theorem agentTurn_next {who : Agent} {s t : State} {k : Host.Outcome State Fault Refusal}
    (h : agentTurn who s k = .next t) : s.mayStep who = none ∧ k = .next t := by
  unfold agentTurn at h
  split at h
  · cases h
  · exact ⟨by assumption, h⟩

theorem takeTurn_changes {tn : Turn} {s t : State} (h : takeTurn tn s = .next t) : Changes s t := by
  cases tn with
  | reset => cases h; exact .single (.elem (Elem.reset s))
  | configure =>
    simp only [takeTurn, configureTurn] at h
    split at h
    · cases h
    · rename_i hf
      split at h
      · rename_i hl
        cases h
        exact .single (.configure s hl (by simpa using hf))
      · cases h
  | wire c => exact issueWord_changes (agentTurn_next h).2
  | irq c gaps => exact issueWord_changes (agentTurn_next h).2
  | task gaps => exact taskTurn_changes (agentTurn_next h).2

/-- Everything a step can do. -/
theorem step_changes {s t : State} (h : step s = .next t) : Changes s t := by
  unfold step at h
  split at h
  · cases h; exact .refl
  · exact (Relation.ReflTransGen.single (Change.schedule s _)).trans (takeTurn_changes h)

theorem irqPoint_changes {c : Command} {gaps : List (List Quiet)} {s m : State} (h : irqPoint c gaps s = some m) :
    Changes s m := by
  have hw := runCommand_within irqGapUpTo_elementary .irq c (s.latch .irq c.data [] gaps)
  unfold irqPoint at h
  split at h
  · rename_i u hu
    cases h
    rw [hu] at hw
    exact (Relation.ReflTransGen.single (Change.latch s .irq c.data [] gaps)).trans (Elems.changes hw)
  · cases h
  · cases h

/-- Everything that can have happened at a point inside IRQ's turn. -/
theorem irqTurnPoint_changes {s m : State} (h : s.irqTurnPoint = some m) : Changes s m := by
  unfold State.irqTurnPoint at h
  split at h
  · exact (Relation.ReflTransGen.single (Change.schedule s _)).trans (irqPoint_changes h)
  · cases h

/-- An invariant that every change keeps is kept by every step. -/
theorem step_keeps {P : State → Prop} (hc : ∀ s t, Change s t → P s → P t) {s t : State}
    (hs : P s) (h : step s = .next t) : P t := by
  have hp : ∀ u, Changes s u → P u := fun u hu => by
    induction hu with
    | refl => exact hs
    | tail _ hlast ih => exact hc _ _ hlast ih
  exact hp t (step_changes h)

end Sys2Proof.Machine
end

