-- ==== Sys2Proof/Laws/Ops.lean ====
section
/-! SUPPORT. The shared operations, one lemma for what each can answer: the flow of lines, the memory primitives, the
admission of a command, the status words under the write rule, and lines that run undisturbed. -/

namespace Sys2Proof.Machine

/-! ## The flow of lines -/

@[simp] theorem Flow.andThen_on (s : State) (k : State → Flow) : (Flow.on s).andThen k = k s := rfl
@[simp] theorem Flow.andThen_off (s : State) (k : State → Flow) : (Flow.off s).andThen k = .off s := rfl
@[simp] theorem Flow.andThen_stuck (f : Fault) (k : State → Flow) : (Flow.stuck f).andThen k = .stuck f := rfl
@[simp] theorem Flow.orRaise_ok {α : Type} (who : Agent) (s : State) (a : α) (k : α → Flow) :
    Flow.orRaise who s (.ok a) k = k a := rfl
@[simp] theorem Flow.orRaise_error {α : Type} (who : Agent) (s : State) (f : FaultInfo) (k : α → Flow) :
    Flow.orRaise who s (.error f) k = .off (s.raise who f) := rfl
@[simp] theorem Flow.outcome_on (s : State) : (Flow.on s).outcome = .next s.dropGaps := rfl
@[simp] theorem Flow.outcome_off (s : State) : (Flow.off s).outcome = .next s.dropGaps := rfl
@[simp] theorem Flow.outcome_stuck (f : Fault) : (Flow.stuck f).outcome = .fault f := rfl

/-! ## The memory primitives -/

theorem State.readPma_eq {s : State} {a n : Nat} (h : a + n ≤ s.params.pmaSize) :
    s.readPma a n = .ok ((List.range n).map fun k => s.pmaByte (a + k)) := by
  rw [State.readPma, if_neg (by omega)]

theorem State.readPma_beyond {s : State} {a n : Nat} (h : s.params.pmaSize < a + n) :
    s.readPma a n = .error (.pmaRange a n) := by
  rw [State.readPma, if_pos h]

theorem State.writePma_eq {s : State} {a : Nat} {bs : List Byte} (h : a + bs.length ≤ s.params.pmaSize) :
    s.writePma a bs = .ok (s.setPma (s.pma.storeBytes a bs)) := by
  rw [State.writePma, if_neg (by omega)]

theorem State.writePma_beyond {s : State} {a : Nat} {bs : List Byte} (h : s.params.pmaSize < a + bs.length) :
    s.writePma a bs = .error (.pmaRange a bs.length) := by
  rw [State.writePma, if_pos h]

theorem State.readRxBuf_eq {s : State} {a n : Nat} (h : a + n ≤ s.params.rxCap) :
    s.readRxBuf a n = .ok ((List.range n).map fun k => s.rxBufByte (a + k)) := by
  rw [State.readRxBuf, if_neg (by omega)]

theorem State.readRxBuf_beyond {s : State} {a n : Nat} (h : s.params.rxCap < a + n) :
    s.readRxBuf a n = .error (.rxOversize n) := by
  rw [State.readRxBuf, if_pos h]

theorem State.writeRxBuf_eq {s : State} {a : Nat} {bs : List Byte} (h : a + bs.length ≤ s.params.rxCap) :
    s.writeRxBuf a bs = .ok (s.setRxBuf (s.rxBuf.storeBytes a bs)) := by
  rw [State.writeRxBuf, if_neg (by omega)]

theorem State.writeRxBuf_beyond {s : State} {a : Nat} {bs : List Byte} (h : s.params.rxCap < a + bs.length) :
    s.writeRxBuf a bs = .error (.rxOversize bs.length) := by
  rw [State.writeRxBuf, if_pos h]

/-! ## Admission -/

/-- A command is admitted exactly when it passes each check (60_exceptions.md R232). -/
theorem State.admits_iff {s : State} {i : Instr} :
    s.Admits i ↔ i.sourceFits = true ∧ i.endpointExists s.params = true ∧ Instr.allowedFrom s.issuer i = true
      ∧ s.inData.length = i.dataLength ∧ Instr.unmodelled s.params s.inData i = false := by
  simp only [State.Admits, admission]
  split
  · simp_all
  · split
    · simp_all
    · split
      · simp_all
      · split
        · simp_all
        · split <;> simp_all

/-- Whether a command is admitted is no matter of what falls between its lines, nor of anything it changes. -/
theorem State.Admits.congr {s t : State} {i : Instr} (h : s.Admits i) (hp : t.params = s.params)
    (hi : t.issuer = s.issuer) (hd : t.inData = s.inData) : t.Admits i := by
  simpa [State.Admits, hp, hi, hd] using h

/-! ## The written words, bit by bit -/

/-- EP_SET_RX_STATUS's write with nothing between its lines replaces STAT_RX (40_flow_control.md R131). -/
theorem eprWritten_rxStatusWord (r : Half) (st : EpStatus) :
    eprWritten r (rxStatusWord r st) = (r &&& 0xCFFF) ||| (st.code.setWidth 16 <<< 12) := by
  apply BitVec.eq_of_getLsbD_eq
  intro i hi
  cases st <;> simp [eprWritten, rxStatusWord, EPRX_KEEP, CTR_NOOP, EpStatus.code] <;>
    interval_cases i <;> simp

/-- EP_SET_TX_STATUS's write with nothing between its lines replaces STAT_TX (40_flow_control.md R132). -/
theorem eprWritten_txStatusWord (r : Half) (st : EpStatus) :
    eprWritten r (txStatusWord r st) = (r &&& 0xFFCF) ||| (st.code.setWidth 16 <<< 4) := by
  apply BitVec.eq_of_getLsbD_eq
  intro i hi
  cases st <;> simp [eprWritten, txStatusWord, EPTX_KEEP, CTR_NOOP, EpStatus.code] <;>
    interval_cases i <;> simp

/-- EP_SET_TYPE's write with nothing between its lines replaces EP_TYPE (40_flow_control.md R133). -/
theorem eprWritten_typeWord (r : Half) (ty : EpType) :
    eprWritten r (typeWord r ty) = (r &&& 0xF9FF) ||| (ty.code.setWidth 16 <<< 9) := by
  apply BitVec.eq_of_getLsbD_eq
  intro i hi
  cases ty <;> simp [eprWritten, typeWord, EP_T_KEEP, CTR_NOOP, EpType.code] <;>
    interval_cases i <;> simp

/-- The acknowledgement of CTR_RX with nothing between the lines clears bit 15 (60_exceptions.md R241). -/
theorem eprWritten_ackRxWord (r : Half) : eprWritten r (ackRxWord r) = r &&& 0x7FFF := by
  apply BitVec.eq_of_getLsbD_eq
  intro i hi
  simp [eprWritten, ackRxWord, RW_FIELDS]
  interval_cases i <;> simp

/-- The acknowledgement of CTR_TX with nothing between the lines clears bit 7 (60_exceptions.md R241). -/
theorem eprWritten_ackTxWord (r : Half) : eprWritten r (ackTxWord r) = r &&& 0xFF7F := by
  apply BitVec.eq_of_getLsbD_eq
  intro i hi
  simp [eprWritten, ackTxWord, RW_FIELDS]
  interval_cases i <;> simp

/-! ## Lines that run undisturbed -/

/-- Nothing falls between lines in any state that lists no moves. -/
theorem State.Undisturbed.gap {s t : State} (h : s.Undisturbed) (ht : t.taskGaps = s.taskGaps)
    (hi : t.irqGaps = s.irqGaps) (who : Agent) : gapOf who t = .on t :=
  gapOf_undisturbed ⟨ht.trans h.1, hi.trans h.2⟩ who

theorem epSetRxStatusLines_undisturbed {gap : Gap} {s : State} (h : gap s = .on s) (ep : EpNum) (st : EpStatus) :
    epSetRxStatusLines ep st gap s =
      .on (s.setEpr ep ((s.eprAt ep &&& 0xCFFF) ||| (st.code.setWidth 16 <<< 12))) := by
  simp [epSetRxStatusLines, h, State.eprWrite, eprWritten_rxStatusWord]

theorem epSetTxStatusLines_undisturbed {gap : Gap} {s : State} (h : gap s = .on s) (ep : EpNum) (st : EpStatus) :
    epSetTxStatusLines ep st gap s =
      .on (s.setEpr ep ((s.eprAt ep &&& 0xFFCF) ||| (st.code.setWidth 16 <<< 4))) := by
  simp [epSetTxStatusLines, h, State.eprWrite, eprWritten_txStatusWord]

theorem epSetTypeLines_undisturbed {gap : Gap} {s : State} (h : gap s = .on s) (ep : EpNum) (ty : EpType) :
    epSetTypeLines ep ty gap s =
      .on (s.setEpr ep ((s.eprAt ep &&& 0xF9FF) ||| (ty.code.setWidth 16 <<< 9))) := by
  simp [epSetTypeLines, h, State.eprWrite, eprWritten_typeWord]

/-- Lines 1 to 4 of RX_COMPLETE with nothing between them, on an empty buffer and a packet inside both memories. -/
theorem rxCompleteLines_undisturbed {gap : Gap} {s : State} (who : Agent)
    (hg : ∀ u : State, u.taskGaps = s.taskGaps → u.irqGaps = s.irqGaps → gap u = .on u)
    (hu : s.rxUnread = 0) (ho : s.rxOffset = 0)
    (hc : (s.bdtAt s.params.epOut).rxCount.toNat ≤ s.params.rxCap)
    (hp : (s.bdtAt s.params.epOut).rxAddr.toNat + (s.bdtAt s.params.epOut).rxCount.toNat ≤ s.params.pmaSize) :
    rxCompleteLines who gap s =
      .on (((s.setEpr s.params.epOut
            ((s.eprAt s.params.epOut &&& 0xCFFF) ||| (EpStatus.nak.code.setWidth 16 <<< 12))).setRxBuf
          (s.rxBuf.storeBytes 0 ((List.range (s.bdtAt s.params.epOut).rxCount.toNat).map fun k =>
            s.pmaByte ((s.bdtAt s.params.epOut).rxAddr.toNat + k)))).setRxUnread
        (s.bdtAt s.params.epOut).rxCount.toNat) := by
  unfold rxCompleteLines
  rw [if_neg (by simp [hu, ho]), hg _ rfl rfl]
  simp only [Flow.andThen_on]
  rw [epSetRxStatusLines_undisturbed (hg _ rfl rfl)]
  simp only [Flow.andThen_on]
  rw [hg _ (by simp) (by simp)]
  simp only [Flow.andThen_on]
  rw [if_neg (by simpa using hc), State.readPma_eq (by simpa using hp), Flow.orRaise_ok,
    State.writeRxBuf_eq (by simpa using hc), Flow.orRaise_ok, hg _ (by simp) (by simp)]
  simp

/-- The re-arm of RX_DRAIN with nothing between its lines. -/
theorem rearmLines_undisturbed {gap : Gap} {s : State} (n : Nat) (who : Agent)
    (hg : ∀ u : State, u.taskGaps = s.taskGaps → u.irqGaps = s.irqGaps → gap u = .on u) :
    rearmLines n who gap s =
      .on ((((s.setRxOffset 0).setRxCapacity s.params.epOut s.params.maxPacket).setEpr s.params.epOut
        ((s.eprAt s.params.epOut &&& 0xCFFF) ||| (EpStatus.valid.code.setWidth 16 <<< 12))).ret who
          (.value n)) := by
  unfold rearmLines
  rw [hg _ (by simp) (by simp)]
  simp only [Flow.andThen_on]
  rw [hg _ (by simp) (by simp)]
  simp only [Flow.andThen_on]
  rw [epSetRxStatusLines_undisturbed (hg _ (by simp) (by simp))]
  simp [State.setRxCapacity]

end Sys2Proof.Machine
end

