-- ==== Sys2Proof/Laws/PerInstr.lean ====
section
/-! SUPPORT. The family EncodeRow, per command: the word the encoder gives matches the command's row of the opcode map
(30_encoding.md R104, R105). -/

namespace Sys2Proof.Laws.EncodeRow

/-- The encoded word matches its row. -/
def Statement (i : Instr) : Prop := encode i &&& i.rowMask = i.rowMatch

/-- A word of fields under a mask that keeps OPC, RES and what the format leaves zero. -/
theorem word_and (f : Fields) (m v : CmdWord)
    (h : ∀ k, k < 32 → (f.toWord.getLsbD k && m.getLsbD k) = v.getLsbD k) : f.toWord &&& m = v :=
  BitVec.eq_of_getLsbD_eq fun k hk => by rw [BitVec.getLsbD_and, h k hk]

theorem epSetRxStatus (ep : EpNum) (st : EpStatus) : Statement (.epSetRxStatus ep st) := by
  refine word_and _ _ _ fun k hk => ?_
  cases st <;> simp only [Instr.fields, Instr.rowMask, Instr.rowMatch, Fields.toWord, BitVec.getLsbD_append] <;>
    interval_cases k <;> simp [EpStatus.code]

theorem epSetTxStatus (ep : EpNum) (st : EpStatus) : Statement (.epSetTxStatus ep st) := by
  refine word_and _ _ _ fun k hk => ?_
  cases st <;> simp only [Instr.fields, Instr.rowMask, Instr.rowMatch, Fields.toWord, BitVec.getLsbD_append] <;>
    interval_cases k <;> simp [EpStatus.code]

theorem epSetType (ep : EpNum) (ty : EpType) : Statement (.epSetType ep ty) := by
  refine word_and _ _ _ fun k hk => ?_
  cases ty <;> simp only [Instr.fields, Instr.rowMask, Instr.rowMatch, Fields.toWord, BitVec.getLsbD_append] <;>
    interval_cases k <;> simp [EpType.code]

theorem rxComplete : Statement .rxComplete := by
  unfold Statement
  decide

theorem rxAvailable : Statement .rxAvailable := by
  unfold Statement
  decide

theorem rxDrain (n : Half) : Statement (.rxDrain n) := by
  refine word_and _ _ _ fun k hk => ?_
  simp only [Instr.fields, Instr.rowMask, Instr.rowMatch, Fields.toWord, BitVec.getLsbD_append]
  interval_cases k <;> simp

theorem txSubmit (n : Half) : Statement (.txSubmit n) := by
  refine word_and _ _ _ fun k hk => ?_
  simp only [Instr.fields, Instr.rowMask, Instr.rowMatch, Fields.toWord, BitVec.getLsbD_append]
  interval_cases k <;> simp

theorem txComplete : Statement .txComplete := by
  unfold Statement
  decide

theorem txPending : Statement .txPending := by
  unfold Statement
  decide

theorem ctrlSetLineState (v : Half) : Statement (.ctrlSetLineState v) := by
  refine word_and _ _ _ fun k hk => ?_
  simp only [Instr.fields, Instr.rowMask, Instr.rowMatch, Fields.toWord, BitVec.getLsbD_append]
  interval_cases k <;> simp

theorem dtrAsserted : Statement .dtrAsserted := by
  unfold Statement
  decide

theorem rtsAsserted : Statement .rtsAsserted := by
  unfold Statement
  decide

theorem resetStateRead : Statement .resetStateRead := by
  unfold Statement
  decide

theorem classRequest : Statement .classRequest := by
  unfold Statement
  decide

theorem enable : Statement .enable := by
  unfold Statement
  decide

theorem disable : Statement .disable := by
  unfold Statement
  decide

theorem hostOut (ep : EpNum) (n : Half) : Statement (.hostOut ep n) := by
  refine word_and _ _ _ fun k hk => ?_
  simp only [Instr.fields, Instr.rowMask, Instr.rowMatch, Fields.toWord, BitVec.getLsbD_append]
  interval_cases k <;> simp

theorem hostIn (ep : EpNum) : Statement (.hostIn ep) := by
  refine word_and _ _ _ fun k hk => ?_
  simp only [Instr.fields, Instr.rowMask, Instr.rowMatch, Fields.toWord, BitVec.getLsbD_append]
  interval_cases k <;> simp

theorem hostSetup : Statement .hostSetup := by
  unfold Statement
  decide

theorem intDispatch (ep : EpNum) (src : DispatchSource) : Statement (.intDispatch ep src) := by
  refine word_and _ _ _ fun k hk => ?_
  cases src <;> simp only [Instr.fields, Instr.rowMask, Instr.rowMatch, Fields.toWord, BitVec.getLsbD_append] <;>
    interval_cases k <;> simp [DispatchSource.code]

end Sys2Proof.Laws.EncodeRow
end

