-- ==== Sys2Proof/Machine/Packing.lean ====
section
/-! DEFINITION. The register packing of a buffer descriptor (10_state.md R43). The spec gives it for information: no
rule depends on it and the abstract fields are normative, so it is a view of a Descriptor, and no state. -/

namespace Sys2Proof.Machine

/-- `ADDR_TX` or `ADDR_RX`: bits 15:1 the offset, bit 0 is 0. DESIGN CHOICE (log 26): R43 does not say how an odd offset, as a
draw may be, is packed; its bit 0 is dropped. Safe: no rule depends on the packing. -/
def addrWord (addr : Half) : Half := addr &&& 0xFFFE

/-- `COUNT_TX`: bits 9:0 are `tx_count`. DESIGN CHOICE (log 26): bits 15:10, of which R43 says nothing, are 0 in the view.
Safe: no rule depends on the packing. -/
def countTxWord (count : BitVec 10) : Half := count.setWidth 16

/-- The capacity that `BL_SIZE` (bit 15) and `NUM_BLOCK` (bits 14:10) of `COUNT_RX` spell. -/
def capacityOfWord (w : Half) : Nat :=
  let blocks := (w.extractLsb' 10 5).toNat
  if w.getLsbD 15 then 32 * (blocks + 1) else 2 * blocks

/-- The capacity word for a capacity: blocks of 2 bytes up to 62 bytes, blocks of 32 bytes above. DESIGN CHOICE (log 26): R43
gives the words of 8, 16, 32 and 64 alone. Which block size spells another capacity, and that the word of a capacity no word
spells (odd below 64, no multiple of 32 above, as a draw may be) is that of the next smaller one, is the model's choice.
Safe: no rule depends on the packing. -/
def capacityWord (capacity : Nat) : Half :=
  if capacity < 64 then BitVec.ofNat 16 (capacity / 2) <<< 10
  else 0x8000 ||| BitVec.ofNat 16 (capacity / 32 - 1) <<< 10

/-- `COUNT_RX`: the capacity word (log 26) with `rx_count` in bits 9:0. -/
def countRxWord (capacity : Nat) (count : BitVec 10) : Half :=
  capacityWord capacity ||| count.setWidth 16

/-- The four words of a descriptor: `ADDR_TX`, `COUNT_TX`, `ADDR_RX`, `COUNT_RX`. -/
def Descriptor.words (d : Descriptor) : Half × Half × Half × Half :=
  (addrWord d.txAddr, countTxWord d.txCount, addrWord d.rxAddr,
    countRxWord d.rxCapacity.val d.rxCount)

end Sys2Proof.Machine
end

