-- ==== Sys2Proof/Tests/Slice0.lean ====
section
/-! SUPPORT. Tests of one step each; the expected values are the spec's own vectors (95_test_vectors.md, named in each
comment). And a witness for every obligation with hypotheses: a concrete state and operands that meet them together. -/

namespace Sys2Proof.Tests

open Sys2Proof Sys2Proof.Machine

/-! ## Helpers -/

/-- CFG of 95_test_vectors.md: the standard parameters, RESET, CONFIGURE. -/
def cfg : State := (State.powerOn Params.standard).configure

/-- CFG for other parameters. -/
def cfgOf (p : Params) : State := (State.powerOn p).configure

/-- TASK, IRQ or WIRE issues a command with this data operand, nothing between its lines. -/
def asTask (data : List Byte) (s : State) : State := { s with issuer := .task, inData := data }
def asIrq (data : List Byte) (s : State) : State := { s with issuer := .irq, inData := data }
def asWire (data : List Byte) (s : State) : State := { s with issuer := .wire, inData := data }

/-- One turn is offered. -/
def offer (t : Turn) (s : State) : State := { s with schedule := [t] }

/-- TASK's program is this one item, and its turn is offered. -/
def offerTask (item : ProgItem) (gaps : List (List Between)) (s : State) : State :=
  { s with schedule := [.task gaps], program := [item], taskNext := 0 }

/-- The step answers a next state of which `p` holds. -/
def sees (o : Host.Outcome State Fault Refusal) (p : State → Bool) : Bool :=
  match o with
  | .next t => p t
  | _ => false

/-- The step answers this fault. -/
def stops (o : Host.Outcome State Fault Refusal) (f : Fault) : Bool :=
  match o with
  | .fault g => g = f
  | _ => false

/-- "0123456789" -/
def digits : List Byte := [0x30, 0x31, 0x32, 0x33, 0x34, 0x35, 0x36, 0x37, 0x38, 0x39]

/-- X1's end: ten bytes are unread. -/
def tenUnread : State :=
  (((cfg.setEpr 3 0x6003).setRxBuf (Memory.storeBytes [] 0 digits)).setRxUnread 10)

/-- A class request SET_CONTROL_LINE_STATE with DTR set, as bytes and as a packet. -/
def dtrOn : List Byte := [0x21, 0x22, 0x01, 0x00, 0x00, 0x00, 0x00, 0x00]
def dtrOnPacket : SetupPacket := ⟨0x21, 0x22, 0x0001, 0x0000, 0x0000⟩

/-! ## Well-formedness: a term that each check refuses -/

theorem test_wellFormed_valid : (Instr.epSetRxStatus 7 .nak).wellFormed Params.standard = true := by decide
theorem test_wellFormed_endpoint : (Instr.epSetRxStatus 8 .nak).wellFormed Params.standard = false := by decide
theorem test_wellFormed_source :
    (Instr.intDispatch 0 .setup).wellFormed Params.standard = true
    ∧ (Instr.intDispatch 3 .setup).wellFormed Params.standard = false := by decide

/-! ## Decoding: words written out from 30_encoding.md R100, R101, R104 -/

theorem test_decode_epSetRxStatus : decode 0x011C0000 = .ok (.epSetRxStatus 1 .valid) := by decide
theorem test_decode_epSetTxStatus : decode 0x02180000 = .ok (.epSetTxStatus 1 .nak) := by decide
theorem test_decode_epSetType : decode 0x035C0000 = .ok (.epSetType 5 .interrupt) := by decide
theorem test_decode_rxComplete : decode 0x10000000 = .ok .rxComplete := by decide
theorem test_decode_rxAvailable : decode 0x11000000 = .ok .rxAvailable := by decide
theorem test_decode_rxDrain : decode 0x12000006 = .ok (.rxDrain 6) := by decide
theorem test_decode_txSubmit : decode 0x20000002 = .ok (.txSubmit 2) := by decide
theorem test_decode_txComplete : decode 0x21000000 = .ok .txComplete := by decide
theorem test_decode_txPending : decode 0x22000000 = .ok .txPending := by decide
theorem test_decode_ctrlSetLineState : decode 0x30000003 = .ok (.ctrlSetLineState 3) := by decide
theorem test_decode_dtrAsserted : decode 0x31000000 = .ok .dtrAsserted := by decide
theorem test_decode_rtsAsserted : decode 0x32000000 = .ok .rtsAsserted := by decide
theorem test_decode_resetStateRead : decode 0x33000000 = .ok .resetStateRead := by decide
theorem test_decode_classRequest : decode 0x40000000 = .ok .classRequest := by decide
theorem test_decode_enable : decode 0x50000000 = .ok .enable := by decide
theorem test_decode_disable : decode 0x51000000 = .ok .disable := by decide
theorem test_decode_hostOut : decode 0x8030000A = .ok (.hostOut 3 10) := by decide
theorem test_decode_hostIn : decode 0x81100000 = .ok (.hostIn 1) := by decide
theorem test_decode_hostSetup : decode 0x82000000 = .ok .hostSetup := by decide
theorem test_decode_intDispatch :
    decode 0x90300000 = .ok (.intDispatch 3 .rx) ∧ decode 0x90140000 = .ok (.intDispatch 1 .tx)
    ∧ decode 0x90080000 = .ok (.intDispatch 0 .setup) := by decide

/-- W2, W3, W5 to W8, W12 -/
theorem test_decode_refuses :
    decode 0x011D0000 = .error .reservedBits ∧ decode 0x011C0001 = .error .unusedField
    ∧ decode 0x04000000 = .error .unknownOpcode ∧ decode 0x90380000 = .error .setupEndpoint
    ∧ decode 0x900C0000 = .error .reservedSource ∧ decode 0x20100002 = .error .unusedField
    ∧ decode 0x81100001 = .error .unusedField := by decide

/-- The spelling of 95_test_vectors.md. -/
theorem test_asm : (Instr.hostOut 3 2).asm [0x61, 0x62] = "HOST_OUT 3, 2, [97, 98]" := by decide

/-! ## Reset, CONFIGURE, the register write rule -/

/-- The endpoint registers of CFG. -/
theorem test_configure :
    (List.range 8).map (fun k => cfg.eprAt (BitVec.ofNat 4 k)) =
      [0x3220, 0x0021, 0x0622, 0x3003, 0x0000, 0x0000, 0x0000, 0x0000] := by decide

/-- E1 to E5 -/
theorem test_writeRule :
    eprWritten 0x60A1 0x70A1 = 0x1081 ∧ eprWritten 0xE0E1 0x0081 = 0x60E1
    ∧ eprWritten 0xE0E1 0x8001 = 0xE061 ∧ eprWritten 0x3A20 0x9A80 = 0x2A20
    ∧ eprWritten 0x0000 0xB080 = 0x3000 := by decide

/-- RESET keeps `fault` and `refused` and takes the registers back (10_state.md R59). -/
theorem test_reset :
    sees (step (offer .reset { tenUnread with fault := some (.rxOversize 9), refused := true }))
      (fun t => t.eprAt 3 = 0x0000 ∧ t.rxUnread = 0 ∧ t.fault = some (.rxOversize 9) ∧ t.refused = true) = true := by
  decide

/-! ## Endpoint flow control -/

/-- Section 2.2: the words `w` and the registers `n`, and R1. -/
theorem test_rxStatusWord :
    rxStatusWord 0x40A1 .valid = 0xB081 ∧ rxStatusWord 0x70A1 .stall = 0xA081
    ∧ eprWritten 0x50A1 (rxStatusWord 0x50A1 .nak) = 0x60A1
    ∧ rxStatusWord 0xF0B1 .nak = 0x9081 ∧ eprWritten 0xF0B1 0x9081 = 0xE0B1 := by decide

/-- R2, and L3-5 line 1 -/
theorem test_epSetRxStatus :
    sees (exec (.epSetRxStatus 1 .valid) (asTask [] (cfg.setEpr 1 0x60A1))) (fun t => t.eprAt 1 = 0x70A1) = true
    ∧ sees (exec (.epSetRxStatus 5 .valid) (asIrq [] cfg)) (fun t => t.eprAt 5 = 0x3000) = true := by decide

/-- Section 2.3, T1 -/
theorem test_txStatusWord :
    txStatusWord 0x6043 .nak = 0x80A3 ∧ txStatusWord 0x6073 .disabled = 0x80B3
    ∧ txStatusWord 0xF0B1 .nak = 0x8091 ∧ eprWritten 0xF0B1 0x8091 = 0xF0A1 := by decide

/-- T2 -/
theorem test_epSetTxStatus :
    sees (exec (.epSetTxStatus 1 .valid) (asTask [] (cfg.setEpr 1 0x70A1))) (fun t => t.eprAt 1 = 0x70B1) = true := by
  decide

/-- Y3, Y5, Y6 -/
theorem test_typeWord :
    typeWord 0x70B1 .isochronous = 0x8481 ∧ eprWritten 0xF0F1 (typeWord 0xF0F1 .interrupt) = 0xF6F1
    ∧ typeWord 0x8081 .interrupt = 0x8681 := by decide

/-- Y2 -/
theorem test_epSetType :
    sees (exec (.epSetType 1 .control) (asTask [] (cfg.setEpr 1 0x70B1))) (fun t => t.eprAt 1 = 0x72B1) = true := by
  decide

/-- The move of Z1: HOST_IN falls between the two lines of EP_SET_TX_STATUS 1, STALL; two bytes
are staged at 0x40. -/
def z1 : State :=
  asTask [] { (cfg.setEpr 1 0x0031).setTxCount 1 2 with taskGaps := [[.quiet (.wire ⟨0x81100000, []⟩)]] }

/-- Z1 and Z2 -/
theorem test_race :
    sees (exec (.epSetTxStatus 1 .stall) z1) (fun t => t.eprAt 1 = 0x00C1) = true
    ∧ sees (exec (.epSetTxStatus 1 .stall) (asTask [] (cfg.setEpr 1 0x0031))) (fun t => t.eprAt 1 = 0x0011) = true := by
  decide

/-! ## Receive channel -/

/-- RX_COMPLETE of two bytes: the callback's part of X11. -/
theorem test_rxComplete :
    sees (exec .rxComplete (asIrq [] (((cfg.setEpr 3 0x3003).setRxCount 3 2).setPma
        (Memory.storeBytes [] 0x80 [0x63, 0x64]))))
      (fun t => t.eprAt 3 = 0x2003 ∧ t.rxUnread = 2 ∧ t.rxBufByte 0 = 0x63 ∧ t.rxBufByte 1 = 0x64) = true := by decide

/-- X8 -/
theorem test_rxComplete_reentry :
    sees (exec .rxComplete (asIrq [] tenUnread))
      (fun t => t.fault = some (.rxReentry 10 0) ∧ t.irqStopped = true ∧ t.rxUnread = 10) = true := by decide

/-- X12 -/
theorem test_rxAvailable :
    sees (exec .rxAvailable (asTask [] tenUnread)) (fun t => t.taskPort = ⟨some (.value 10), []⟩) = true := by decide

/-- L3-1 line 4 -/
theorem test_rxDrain_part :
    sees (exec (.rxDrain 4) (asTask [] tenUnread))
      (fun t => t.taskPort = ⟨some (.value 4), [0x30, 0x31, 0x32, 0x33]⟩ ∧ t.rxOffset = 4 ∧ t.rxUnread = 6
        ∧ t.eprAt 3 = 0x6003) = true := by decide

/-- X3 -/
theorem test_rxDrain_all :
    sees (exec (.rxDrain 100) (asTask [] tenUnread))
      (fun t => t.taskPort = ⟨some (.value 10), digits⟩ ∧ t.rxOffset = 0 ∧ t.rxUnread = 0
        ∧ (t.bdtAt 3).rxCapacity = 64 ∧ t.eprAt 3 = 0x7003) = true := by decide

/-! ## Transmit channel -/

/-- S2 line 1 -/
theorem test_txSubmit :
    sees (exec (.txSubmit 2) (asTask [0x41, 0x42] cfg))
      (fun t => t.pmaByte 0x40 = 0x41 ∧ t.pmaByte 0x41 = 0x42 ∧ (t.bdtAt 1).txCount = 2 ∧ t.txPending = 2
        ∧ t.eprAt 1 = 0x0031 ∧ t.taskPort = ⟨some (.value 2), []⟩) = true := by decide

/-- T7: MAX_PACKET = 8 clamps to 4. -/
theorem test_txSubmit_clamp :
    sees (exec (.txSubmit 5) (asTask [0x41, 0x42, 0x43, 0x44, 0x45]
        (cfgOf { Params.standard with maxPacket := 8 })))
      (fun t => t.txPending = 4 ∧ t.pmaByte 0x43 = 0x44 ∧ t.taskPort.result = some (.value 4)) = true := by decide

/-- S2 line 5 -/
theorem test_txComplete :
    sees (exec .txComplete (asIrq [] (cfg.setTxPending 2)))
      (fun t => t.txPending = 0 ∧ t.irqPort.result = some .unit) = true := by decide

/-- S2 line 2 -/
theorem test_txPending :
    sees (exec .txPending (asTask [] (cfg.setTxPending 2)))
      (fun t => t.taskPort = ⟨some (.value 2), []⟩) = true := by decide

/-- T10, and T11's first TX_SUBMIT: PUTC stays. -/
theorem test_putc :
    sees (step (offerTask (.putc 0x43) [] cfg))
      (fun t => t.txPending = 1 ∧ t.eprAt 1 = 0x0031 ∧ t.taskPort.result = some .unit ∧ t.taskNext = 1) = true
    ∧ sees (step (offerTask (.putc 0x44) [] (cfg.setTxPending 1)))
      (fun t => t.txPending = 1 ∧ t.taskNext = 0) = true := by decide

/-! ## Control lines -/

/-- D4 and D7 -/
theorem test_ctrlSetLineState :
    sees (exec (.ctrlSetLineState 0x0002) (asIrq [] { cfg with resetState := .high }))
      (fun t => t.resetState = .negedge ∧ t.ctlDtr = false ∧ t.ctlRts = true) = true
    ∧ sees (exec (.ctrlSetLineState 0xFFFD) (asIrq [] { cfg with resetState := .low }))
      (fun t => t.resetState = .high ∧ t.ctlDtr = true ∧ t.ctlRts = false) = true := by decide

/-- D1 to D8 -/
theorem test_detector :
    [ResetState.unset, .high, .negedge, .low].map (fun r => (r.next true, r.next false)) =
      [(.high, .low), (.high, .negedge), (.high, .low), (.high, .low)] := by decide

/-- S1 lines 2 and 3, D10 -/
theorem test_lineReads :
    sees (exec .dtrAsserted (asTask [] { cfg with ctlDtr := true }))
      (fun t => t.taskPort.result = some (.value 1)) = true
    ∧ sees (exec .rtsAsserted (asTask [] { cfg with ctlDtr := true }))
      (fun t => t.taskPort.result = some (.value 0)) = true
    ∧ sees (exec .resetStateRead (asTask [] { cfg with resetState := .negedge }))
      (fun t => t.taskPort.result = some (.value 0b10) ∧ t.resetState = .negedge) = true := by decide

/-- K2 and K7 -/
theorem test_classRequest :
    sees (exec .classRequest (asIrq [0x21, 0x22, 0x03, 0, 0, 0, 0, 0] cfg))
      (fun t => t.irqPort.result = some (.value 1) ∧ t.ctlDtr = true ∧ t.ctlRts = true) = true
    ∧ sees (exec .classRequest (asIrq [0xA1, 0x22, 0x01, 0, 0, 0, 0, 0] cfg))
      (fun t => t.irqPort.result = some (.value 1) ∧ t.resetState = .high) = true := by decide

/-- K6, K8 and K9: UNSUPPORTED, and nothing moves. -/
theorem test_classRequest_unsupported :
    [[0x21, 0x99, 0, 0, 0, 0, 0, 0], [0x22, 0x22, 0x01, 0, 0, 0, 0, 0], [0x41, 0x22, 0x01, 0, 0, 0, 0, 0]].map
      (fun d => sees (exec .classRequest (asIrq d cfg))
        (fun t => t.irqPort.result = some (.value 0) ∧ t.resetState = .unset)) = [true, true, true] := by decide

/-! ## Wire events -/

/-- H4 -/
theorem test_hostOut :
    sees (exec (.hostOut 3 1) (asWire [0x61] cfg))
      (fun t => t.eprAt 3 = 0xE003 ∧ (t.bdtAt 3).rxCount = 1 ∧ t.pmaByte 0x80 = 0x61
        ∧ t.wireLog = [.outAck 3 [0x61]]) = true := by decide

/-- H1 and H2 -/
theorem test_hostOut_refusing :
    sees (exec (.hostOut 3 1) (asWire [0x61] (cfg.setEpr 3 0x0003)))
      (fun t => t.wireLog = [.outNone 3] ∧ t.eprAt 3 = 0x0003) = true
    ∧ sees (exec (.hostOut 3 1) (asWire [0x61] (cfg.setEpr 3 0x1003)))
      (fun t => t.wireLog = [.outStall 3] ∧ t.eprAt 3 = 0x1003) = true := by decide

/-- H8 -/
theorem test_hostIn :
    sees (exec (.hostIn 1) (asWire [] (((cfg.setEpr 1 0x0031).setTxCount 1 2).setPma
        (Memory.storeBytes [] 0x40 [0x41, 0x42]))))
      (fun t => t.eprAt 1 = 0x00E1 ∧ t.wireLog = [.inData 1 [0x41, 0x42]]) = true := by decide

/-- H9 -/
theorem test_hostIn_nak :
    sees (exec (.hostIn 2) (asWire [] cfg))
      (fun t => t.wireLog = [.inNak 2] ∧ t.eprAt 2 = 0x0622) = true := by decide

/-- H12 -/
theorem test_hostSetup :
    sees (exec .hostSetup (asWire dtrOn cfg)) (fun t => t.setupPending = some dtrOnPacket) = true := by decide

/-! ## Interrupt dispatch -/

/-- I1, with X1's packet -/
theorem test_intDispatch_rx :
    sees (exec (.intDispatch 3 .rx) (asIrq [] (((cfg.setEpr 3 0xE003).setRxCount 3 10).setPma
        (Memory.storeBytes [] 0x80 digits))))
      (fun t => t.eprAt 3 = 0x6003 ∧ t.irqActive = false ∧ t.rxUnread = 10
        ∧ (List.range 10).map t.rxBufByte = digits) = true := by decide

/-- I2 and I3 -/
theorem test_intDispatch_tx_setup :
    sees (exec (.intDispatch 1 .tx) (asIrq [] ((cfg.setEpr 1 0x00E1).setTxPending 2)))
      (fun t => t.eprAt 1 = 0x0061 ∧ t.txPending = 0) = true
    ∧ sees (exec (.intDispatch 0 .setup) (asIrq [] (cfg.setSetupPending (some dtrOnPacket))))
      (fun t => t.setupPending = none ∧ t.resetState = .high ∧ t.wireLog = [.setup true]) = true := by decide

/-- I5: not enabled. -/
theorem test_intDispatch_notEnabled :
    stops (exec (.intDispatch 3 .rx) (asIrq [] cfg)) (.dispatchNotEnabled 3 .rx) = true := by decide

/-! ## Refusals -/

/-- W4, W9, W10, W11, W14, H10, H11 and T12 -/
theorem test_refusals :
    sees (exec (.epSetRxStatus 9 .valid) (asTask [] cfg)) (fun t => t.refusal = some (.epRange 0x019C0000)) = true
    ∧ sees (exec (.rxDrain 4) (asIrq [] cfg)) (fun t => t.refusal = some (.context 0x12000004 .irq)) = true
    ∧ sees (exec .rxComplete (asTask [] cfg)) (fun t => t.refusal = some (.context 0x10000000 .task)) = true
    ∧ sees (exec .classRequest (asIrq [0, 0, 0, 0, 0, 0, 0] cfg))
      (fun t => t.refusal = some (.operandLength 0x40000000 7)) = true
    ∧ sees (exec (.hostOut 5 1) (asWire [0x61] cfg)) (fun t => t.refusal = some (.unmodelled 0x80500001)) = true
    ∧ sees (exec .hostSetup (asWire [0x00, 0x05, 0x07, 0, 0, 0, 0, 0] cfg))
      (fun t => t.refusal = some (.unmodelled 0x82000000)) = true
    ∧ sees (exec (.txSubmit 2) (asTask [0x41, 0x42, 0x43] cfg))
      (fun t => t.refusal = some (.operandLength 0x20000002 3) ∧ t.txPending = 0) = true := by decide

/-- W11: ENABLE, and DISABLE beside it (60_exceptions.md R236) -/
theorem test_enable_disable :
    sees (exec .enable (asTask [] cfg)) (fun t => t.refused = true ∧ t.refusal = some (.unmodelled 0x50000000)) = true
    ∧ sees (exec .disable (asTask [] cfg)) (fun t => t.refused = true ∧ t.taskStopped = true) = true := by decide

/-- W2 on TASK's interface: a word that does not decode -/
theorem test_illegalWord :
    sees (step (offerTask (.cmd ⟨0x011D0000, []⟩) [] cfg))
      (fun t => t.refusal = some (.illegalCommand 0x011D0000) ∧ t.taskStopped = true) = true := by decide

/-! ## A word placed from outside (log 17) -/

theorem test_withFetchWord :
    sees (step (State.reset.withFetchWord 32 0x11000000)) (fun t => t.taskPort.result = some (.value 0)) = true
    ∧ sees (step (State.reset.withFetchWord 32 0x21000000)) (fun t => t.irqPort.result = some .unit) = true
    ∧ sees (step (State.reset.withFetchWord 32 0x81100000)) (fun t => t.wireLog = [.inNone 1]) = true
    ∧ sees (step (State.reset.withFetchWord 32 0x90140000)) (fun t => t.irqPort.result = some .unit) = true
    ∧ decodeTableWord 32 0x90140000 = some (.intDispatch 1 .tx) := by decide

/-! ## Witnesses: the hypotheses of each obligation can be met -/

theorem witness_DecodeOfEncodeIsTheCommand : (Instr.intDispatch 0 .setup).sourceFits = true := by decide
theorem witness_EncodeOfDecodeIsTheWord : decode 0x90080000 = .ok (.intDispatch 0 .setup) := by decide
theorem witness_DecodeFollowsTheOpcodeRows :
    decode 0x8030000A = .ok (.hostOut 3 10) ∧ (0x900C0000 : CmdWord) &&& (Instr.intDispatch 0 .rx).rowMask =
      (Instr.intDispatch 0 .rx).rowMatch := by decide

theorem witness_StepIssuesTheDecodedCommand :
    (let c : Command := ⟨0x11000000, []⟩
     let s := offerTask (.cmd c) [] cfg
     s.schedule = .task [] :: [] ∧ s.taskStopped = false ∧ s.irqActive = false
      ∧ s.nextItem = some (.cmd c) ∧ decode c.word = .ok .rxAvailable)
    ∧ (let c : Command := ⟨0x90380000, []⟩
       let s := offer (.irq c []) cfg
       s.schedule = .irq c [] :: [] ∧ s.irqStopped = false ∧ s.irqActive = false
        ∧ decode c.word = .error .setupEndpoint)
    ∧ (let c : Command := ⟨0x81100000, []⟩
       let s := offer (.wire c) cfg
       s.schedule = .wire c :: [] ∧ s.wireStopped = false ∧ decode c.word = .ok (.hostIn 1)) := by decide

/-- An infinite program (00_scope.md R18): one listed command, then stream 7. -/
def endless : State :=
  { offerTask (.cmd ⟨0x11000000, []⟩) [] cfg with programTail := some 7 }

/-- The listed command runs, then the stream's first item is TASK's next; a finite program is over. -/
theorem test_programTail :
    sees (step endless) (fun t => t.taskPort.result = some (.value 0) ∧ t.taskNext = 1) = true
    ∧ { endless with taskNext := 1 }.nextItem = some (taskStreamItem 7 0)
    ∧ { endless with taskNext := 4 }.nextItem = some (taskStreamItem 7 3)
    ∧ stops (step { offerTask (.putc 0) [] cfg with taskNext := 1 }) .programOver = true :=
  ⟨by decide, rfl, rfl, by decide⟩

theorem witness_StoppedAgentsTakeNoTurn :
    (let s := offerTask (.putc 0) [] { cfg with taskStopped := true }
     s.schedule = .task [] :: [] ∧ s.taskStopped = true)
    ∧ (let s := offerTask (.putc 0) [] { cfg with irqActive := true }
       s.schedule = .task [] :: [] ∧ s.taskStopped = false ∧ s.irqActive = true)
    ∧ (let s := offer (.irq ⟨0, []⟩ []) { cfg with irqStopped := true }
       s.schedule = .irq ⟨0, []⟩ [] :: [] ∧ s.irqStopped = true)
    ∧ (let s := offer (.irq ⟨0, []⟩ []) { cfg with irqActive := true }
       s.schedule = .irq ⟨0, []⟩ [] :: [] ∧ s.irqStopped = false ∧ s.irqActive = true)
    ∧ (let s := offer (.wire ⟨0, []⟩) { cfg with wireStopped := true }
       s.schedule = .wire ⟨0, []⟩ :: [] ∧ s.wireStopped = true)
    ∧ (let s := { offerTask (.putc 0) [] cfg with taskNext := 1 }
       s.schedule = .task [] :: [] ∧ s.taskStopped = false ∧ s.irqActive = false ∧ s.programTail = none
        ∧ s.program.length ≤ s.taskNext)
    ∧ endless.programTail = some 7 := by decide

theorem witness_PutcSubmitsUntilAccepted :
    (let s := offerTask (.putc 0x44) [] (cfg.setTxPending 1)
     s.schedule = .task [] :: [] ∧ s.taskStopped = false ∧ s.irqActive = false
      ∧ s.nextItem = some (.putc 0x44) ∧ s.params.Legal ∧ s.txPending ≠ 0)
    ∧ (let s := offerTask (.putc 0x43) [] (cfg.setBdt 1 { cfg.bdtAt 1 with txAddr := 511 })
       s.schedule = .task [] :: [] ∧ s.taskStopped = false ∧ s.irqActive = false
        ∧ s.nextItem = some (.putc 0x43) ∧ s.params.Legal ∧ s.txPending = 0
        ∧ (s.bdtAt s.params.epIn).txAddr.toNat + 1 ≤ s.params.pmaSize) := by decide

theorem witness_RefusedCommandChangesOnlyTheMark :
    let s := asIrq [] cfg
    admission s.params s.issuer s.inData (.rxDrain 4) = some (.context 0x12000004 .irq) := by decide

theorem witness_CommandsAreRefusedOutsideTheirContext :
    let s := asIrq [] cfg
    (Instr.rxDrain 4).WellFormed s.params ∧ Instr.allowedFrom s.issuer (.rxDrain 4) = false := by decide

theorem witness_OperandsAreChecked :
    (let s := asTask [] cfg
     (Instr.epSetType 8 .bulk).endpoint = some 8 ∧ (Instr.epSetType 8 .bulk).sourceFits = true
      ∧ s.params.numEp ≤ (8 : EpNum).toNat)
    ∧ (let s := asTask [0x41] cfg
       (Instr.txSubmit 0).WellFormed s.params ∧ Instr.allowedFrom s.issuer (.txSubmit 0) = true
        ∧ s.inData.length ≠ (Instr.txSubmit 0).dataLength)
    ∧ (let s := asWire [] cfg
       (7 : EpNum).toNat < s.params.numEp ∧ s.issuer = .wire ∧ s.inData.length = (0 : Half).toNat
        ∧ (7 : EpNum) ≠ s.params.epOut)
    ∧ (let s := asWire [] cfg
       (0 : EpNum).toNat < s.params.numEp ∧ s.issuer = .wire ∧ s.inData = []
        ∧ (0 : EpNum) ≠ s.params.epIn ∧ (0 : EpNum) ≠ s.params.epNotify)
    ∧ (let s := asWire [0x80, 0x06, 0, 0, 0, 0, 0, 0] cfg
       s.issuer = .wire ∧ s.inData.length = 8 ∧ (s.inData.getD 0 0).extractLsb' 5 2 = 0b00) := by decide

theorem witness_EnableAndDisableAreRefused :
    (asTask [] cfg).issuer = .task ∧ (asTask [] cfg).inData = [] := by decide

theorem witness_FaultAndRefusedAreNeverCleared :
    cfg.fault = none
    ∧ (let s := offer .reset { cfg with fault := some (.rxOversize 200), refused := true }
       s.fault = some (.rxOversize 200) ∧ s.refused = true ∧ ∃ t, step s = .next t) :=
  ⟨rfl, rfl, rfl, _, rfl⟩

/-- Z1 again: the register changes between the lines. -/
theorem witness_EpSetTxStatusUnderInterference :
    z1.Admits (.epSetTxStatus 1 .stall) ∧ ∃ m, gapOf z1.issuer (z1.clearPort z1.issuer) = .on m :=
  ⟨by decide, _, rfl⟩

/-- A packet comes between the lines of EP_SET_RX_STATUS 3, STALL. -/
def rxRace : State :=
  asTask [] { cfg with taskGaps := [[.quiet (.wire ⟨0x80300001, [0x61]⟩)]] }

theorem witness_EpSetRxStatusUnderInterference :
    rxRace.Admits (.epSetRxStatus 3 .stall)
    ∧ ∃ m, gapOf rxRace.issuer (rxRace.clearPort rxRace.issuer) = .on m := ⟨by decide, _, rfl⟩

theorem witness_EpSetTypeUnderInterference :
    rxRace.Admits (.epSetType 3 .control)
    ∧ ∃ m, gapOf rxRace.issuer (rxRace.clearPort rxRace.issuer) = .on m := ⟨by decide, _, rfl⟩

theorem witness_FlowControlCommandsComplete :
    let s := asIrq [] cfg
    (7 : EpNum).toNat < s.params.numEp ∧ s.issuer ≠ .wire ∧ s.inData = [] ∧ s.Undisturbed := by decide

theorem witness_StatusCommandsAreIdempotent :
    let s := asTask [] cfg
    s.Undisturbed ∧ ∃ t u, exec (.epSetTxStatus 1 .stall) s = .next t ∧ exec (.epSetTxStatus 1 .stall) t = .next u :=
  ⟨by decide, _, _, rfl, rfl⟩

theorem witness_EveryCommandKeepsItsFrame :
    let s := asTask [0x41, 0x42] cfg
    s.Undisturbed ∧ s.Admits (.txSubmit 2) ∧ ∃ t, exec (.txSubmit 2) s = .next t :=
  ⟨by decide, by decide, _, rfl⟩

theorem witness_ReadCommandsReturnWhatTheyRead :
    (asIrq [] cfg).issuer ≠ .wire ∧ (asIrq [] cfg).inData = [] := by decide

/-- The longest packet that fits, at the end of packet memory. -/
def longPacket : State :=
  (asIrq [] (cfg.setEpr 3 0xE003)).setBdt 3 { cfg.bdtAt 3 with rxAddr := 320, rxCount := 192 }

theorem witness_RxCompletePublishesThePacket :
    let s := longPacket
    let ep := s.params.epOut
    s.issuer = .irq ∧ s.inData = [] ∧ s.Undisturbed ∧ s.rxUnread = 0 ∧ s.rxOffset = 0
    ∧ (s.bdtAt ep).rxCount.toNat ≤ s.params.rxCap
    ∧ (s.bdtAt ep).rxAddr.toNat + (s.bdtAt ep).rxCount.toNat ≤ s.params.pmaSize := by decide

theorem witness_RxCompleteFaults :
    (let s := asIrq [] (cfg.setRxOffset 1)
     s.issuer = .irq ∧ s.inData = [] ∧ (s.rxUnread ≠ 0 ∨ s.rxOffset ≠ 0))
    ∧ (let s := longPacket.setRxCount 3 193
       s.issuer = .irq ∧ s.inData = [] ∧ s.Undisturbed ∧ s.rxUnread = 0 ∧ s.rxOffset = 0
        ∧ (s.bdtAt s.params.epOut).rxCount.toNat > s.params.rxCap)
    ∧ (let s := longPacket.setBdt 3 { longPacket.bdtAt 3 with rxAddr := 321 }
       let ep := s.params.epOut
       s.issuer = .irq ∧ s.inData = [] ∧ s.Undisturbed ∧ s.rxUnread = 0 ∧ s.rxOffset = 0
        ∧ (s.bdtAt ep).rxCount.toNat ≤ s.params.rxCap
        ∧ (s.bdtAt ep).rxAddr.toNat + (s.bdtAt ep).rxCount.toNat > s.params.pmaSize) := by decide

theorem witness_DrainOfNothingChangesNothing :
    (let s := asTask [] tenUnread
     s.issuer = .task ∧ s.inData = [] ∧ (0 : Half) = 0)
    ∧ (let s := asTask [] cfg
       s.issuer = .task ∧ s.inData = [] ∧ s.rxUnread = 0 ∧ s.params.drainEmptyRearms = false) := by decide

theorem witness_DrainReturnsUnreadBytes :
    let s := asTask [] tenUnread
    s.issuer = .task ∧ s.inData = [] ∧ s.Undisturbed ∧ s.rxUnread ≠ 0
    ∧ (9 : Half) ≠ 0 ∧ (10 : Half) ≠ 0 ∧ (9 : Half).toNat < s.rxUnread ∧ ¬ (10 : Half).toNat < s.rxUnread
    ∧ s.rxOffset + min (10 : Half).toNat s.rxUnread ≤ s.params.rxCap := by decide

theorem witness_DrainOfNothingRearmsWhenConfigured :
    let s := asTask [] (cfgOf { Params.standard with drainEmptyRearms := true })
    s.issuer = .task ∧ s.inData = [] ∧ s.Undisturbed ∧ s.rxUnread = 0 ∧ (1 : Half) ≠ 0
    ∧ s.params.drainEmptyRearms = true := by decide

theorem witness_AccessesBeyondTheBuffersFault :
    (let s := asTask [] (tenUnread.setRxOffset 183)
     s.issuer = .task ∧ s.inData = [] ∧ s.Undisturbed ∧ s.rxUnread ≠ 0 ∧ (10 : Half) ≠ 0
      ∧ s.params.rxCap < s.rxOffset + min (10 : Half).toNat s.rxUnread)
    ∧ (let s := asTask [0x41, 0x42] (cfg.setBdt 1 { cfg.bdtAt 1 with txAddr := 511 })
       s.issuer = .task ∧ s.inData.length = (2 : Half).toNat ∧ s.Undisturbed ∧ s.txPending = 0
        ∧ min (2 : Half).toNat s.params.txClamp ≠ 0
        ∧ s.params.pmaSize < (s.bdtAt s.params.epIn).txAddr.toNat + min (2 : Half).toNat s.params.txClamp) := by
  decide

theorem witness_DrainsReturnTheUnreadBytesInOrder :
    let s := asTask [] tenUnread
    s.issuer = .task ∧ s.inData = [] ∧ s.Undisturbed
    ∧ s.rxOffset + s.rxUnread ≤ s.params.rxCap ∧ 0 < s.rxUnread
    ∧ s.rxUnread ≤ (([4, 0, 6] : List Half).map BitVec.toNat).sum := by decide

/-- A whole packet of one byte: WIRE, IRQ and TASK take their turns. -/
def onePacket : State :=
  { cfg with
    schedule := [.wire ⟨encode (.hostOut 3 1), [0x61]⟩, .irq ⟨encode (.intDispatch 3 .rx), []⟩ [], .task []]
    program := [.cmd ⟨encode (.rxDrain 1), []⟩] }

theorem witness_PacketReachesTheApplication :
    let s := onePacket
    let ep := s.params.epOut
    let data : List Byte := [0x61]
    s.schedule = .wire ⟨encode (.hostOut ep (BitVec.ofNat 16 data.length)), data⟩
      :: .irq ⟨encode (.intDispatch ep .rx), []⟩ [] :: .task [] :: []
    ∧ s.nextItem = some (.cmd ⟨encode (.rxDrain 1), []⟩)
    ∧ s.params.Legal ∧ (∀ who, s.stopped who = false) ∧ s.irqActive = false
    ∧ statRx (s.eprAt ep) = .valid ∧ s.rxUnread = 0 ∧ s.rxOffset = 0
    ∧ data ≠ [] ∧ data.length ≤ (s.bdtAt ep).rxCapacity.val ∧ data.length ≤ s.params.maxPacket
    ∧ (s.bdtAt ep).rxAddr.toNat + data.length ≤ s.params.pmaSize ∧ data.length ≤ (1 : Half).toNat := by
  refine ⟨by decide, by decide, by decide, fun who => by cases who <;> rfl, ?_⟩
  decide

theorem witness_TxSubmitWhileBusyChangesNothing :
    (let s := asTask [0x41] (cfg.setTxPending 1)
     s.issuer = .task ∧ s.inData.length = (1 : Half).toNat ∧ s.txPending ≠ 0)
    ∧ (let s := asTask [] cfg
       s.issuer = .task ∧ s.inData.length = (0 : Half).toNat ∧ (0 : Half) = 0) := by decide

theorem witness_TxSubmitStagesThePacket :
    let s := asTask [0x41, 0x42] (cfg.setBdt 1 { cfg.bdtAt 1 with txAddr := 510 })
    let ep := s.params.epIn
    let n := min (2 : Half).toNat s.params.txClamp
    s.issuer = .task ∧ s.inData.length = (2 : Half).toNat ∧ s.Undisturbed ∧ s.txPending = 0
    ∧ n ≠ 0 ∧ (s.bdtAt ep).txAddr.toNat + n ≤ s.params.pmaSize := by decide

theorem witness_TxCompleteEndsTheTransmission :
    (asIrq [] cfg).issuer = .irq ∧ (asIrq [] cfg).inData = [] := by decide

theorem witness_StagedBytesAreSent :
    let data : List Byte := [0x41]
    let s : State := { cfg with
      schedule := [.task [], .wire ⟨encode (.hostIn 1), []⟩]
      program := [.cmd ⟨encode (.txSubmit 1), data⟩] }
    let ep := s.params.epIn
    s.schedule = .task [] :: .wire ⟨encode (.hostIn ep), []⟩ :: []
    ∧ s.nextItem = some (.cmd ⟨encode (.txSubmit (BitVec.ofNat 16 data.length)), data⟩)
    ∧ s.params.Legal ∧ s.taskStopped = false ∧ s.wireStopped = false ∧ s.irqActive = false
    ∧ s.txPending = 0 ∧ data ≠ [] ∧ data.length < 65536
    ∧ (s.bdtAt ep).txAddr.toNat + min data.length s.params.txClamp ≤ s.params.pmaSize := by decide

theorem witness_LineStateRequestLatchesAndAdvances :
    (asIrq [] cfg).issuer = .irq ∧ (asIrq [] cfg).inData = [] := by decide

theorem witness_ClassRequestClassifies :
    (asIrq dtrOn cfg).issuer = .irq ∧ (asIrq dtrOn cfg).inData.length = 8 := by decide

theorem witness_LineStateMovesOnlyInInterruptContext :
    let s := offerTask (.putc 0x41) [[.quiet (.wire ⟨0x82000000, dtrOn⟩)]] cfg
    (∀ tn ∈ s.schedule.head?, tn.withoutIrqAndReset = true) ∧ ∃ t, step s = .next t :=
  ⟨by decide, _, rfl⟩

theorem witness_HostOutIsAnsweredByStatus :
    [(0x0003, EpStatus.disabled), (0x1003, .stall), (0x2003, .nak)].map (fun x : Half × EpStatus =>
      let s := asWire [0x61] (cfg.setEpr 3 x.1)
      decide (s.issuer = .wire ∧ s.Admits (.hostOut 3 1) ∧ statRx (s.eprAt 3) = x.2)) = [true, true, true] := by decide

/-- A packet of one byte that just fits, in capacity and in packet memory. -/
def tightOut : State :=
  asWire [0x61] (cfg.setBdt 3 { cfg.bdtAt 3 with rxAddr := 511, rxCapacity := 1 })

theorem witness_HostOutAcceptsAPacket :
    let s := tightOut
    s.issuer = .wire ∧ s.Admits (.hostOut 3 1) ∧ statRx (s.eprAt 3) = .valid
    ∧ (1 : Half).toNat ≤ (s.bdtAt 3).rxCapacity.val
    ∧ (s.bdtAt 3).rxAddr.toNat + (1 : Half).toNat ≤ s.params.pmaSize := by decide

theorem witness_HostOutBeyondItsBounds :
    (let s := asWire [0x61, 0x62] tightOut
     s.issuer = .wire ∧ s.Admits (.hostOut 3 2) ∧ statRx (s.eprAt 3) = .valid
      ∧ (2 : Half).toNat > (s.bdtAt 3).rxCapacity.val)
    ∧ (let s := tightOut.setBdt 3 { tightOut.bdtAt 3 with rxAddr := 512 }
       s.issuer = .wire ∧ s.Admits (.hostOut 3 1) ∧ statRx (s.eprAt 3) = .valid
        ∧ (1 : Half).toNat ≤ (s.bdtAt 3).rxCapacity.val
        ∧ (s.bdtAt 3).rxAddr.toNat + (1 : Half).toNat > s.params.pmaSize) := by decide

theorem witness_HostInIsAnsweredByStatus :
    [(0x0001, EpStatus.disabled), (0x0011, .stall), (0x0021, .nak)].map (fun x : Half × EpStatus =>
      let s := asWire [] (cfg.setEpr 1 x.1)
      decide (s.issuer = .wire ∧ s.Admits (.hostIn 1) ∧ statTx (s.eprAt 1) = x.2)) = [true, true, true] := by decide

theorem witness_HostInSendsThePacket :
    [(510, true), (511, false)].map (fun x : Half × Bool =>
      let s := asWire [] ((cfg.setEpr 1 0x0031).setBdt 1 { cfg.bdtAt 1 with txAddr := x.1, txCount := 2 })
      decide (s.issuer = .wire ∧ s.Admits (.hostIn 1) ∧ statTx (s.eprAt 1) = .valid
        ∧ decide ((s.bdtAt 1).txAddr.toNat + (s.bdtAt 1).txCount.toNat ≤ s.params.pmaSize) = x.2)) =
      [true, true] := by decide

theorem witness_HostSetupQueuesThePacket :
    (let s := asWire dtrOn cfg
     s.issuer = .wire ∧ s.Admits .hostSetup ∧ s.setupPending = none)
    ∧ (let s := asWire dtrOn (cfg.setSetupPending (some dtrOnPacket))
       s.issuer = .wire ∧ s.Admits .hostSetup ∧ s.setupPending ≠ none) := by decide

theorem witness_DispatchNeedsAPendingRequest :
    (let s := asIrq [] { cfg.setEpr 3 0xE003 with irqActive := true }
     s.Admits (.intDispatch 3 .rx) ∧ s.irqActive = true)
    ∧ (let s := asIrq [] cfg
       s.Admits (.intDispatch 0 .setup) ∧ s.requestPending 0 .setup = false) := by decide

theorem witness_DispatchRxRunsTheReceiveCallback :
    let s := longPacket
    let ep := s.params.epOut
    s.Admits (.intDispatch ep .rx) ∧ s.Undisturbed ∧ s.irqActive = false ∧ ctrRx (s.eprAt ep) = true
    ∧ s.rxUnread = 0 ∧ s.rxOffset = 0 ∧ (s.bdtAt ep).rxCount.toNat ≤ s.params.rxCap
    ∧ (s.bdtAt ep).rxAddr.toNat + (s.bdtAt ep).rxCount.toNat ≤ s.params.pmaSize := by decide

theorem witness_DispatchRxReentryFaults :
    let s := asIrq [] (tenUnread.setEpr 3 0xB003)
    let ep := s.params.epOut
    s.Admits (.intDispatch ep .rx) ∧ s.Undisturbed ∧ s.irqActive = false ∧ ctrRx (s.eprAt ep) = true
    ∧ (s.rxUnread ≠ 0 ∨ s.rxOffset ≠ 0) := by decide

theorem witness_DispatchTxEndsTheTransmission :
    let s := asIrq [] ((cfg.setEpr 1 0x00E1).setTxPending 2)
    let ep := s.params.epIn
    s.Admits (.intDispatch ep .tx) ∧ s.Undisturbed ∧ s.irqActive = false ∧ ctrTx (s.eprAt ep) = true := by decide

/-- I4 for the TX source; the RX source of endpoint 2. -/
theorem witness_DispatchOfAnEmptySlotOnlyAcknowledges :
    (let s := asIrq [] (cfg.setEpr 2 0x86E2)
     s.Admits (.intDispatch 2 .rx) ∧ s.Undisturbed ∧ s.irqActive = false ∧ ctrRx (s.eprAt 2) = true
      ∧ (2 : EpNum) ≠ s.params.epOut)
    ∧ (let s := asIrq [] (cfg.setEpr 2 0x06E2)
       s.Admits (.intDispatch 2 .tx) ∧ s.Undisturbed ∧ s.irqActive = false ∧ ctrTx (s.eprAt 2) = true
        ∧ (2 : EpNum) ≠ s.params.epIn) := by decide

theorem witness_DispatchSetupClassifiesThePacket :
    let s := asIrq [] (cfg.setSetupPending (some dtrOnPacket))
    s.Admits (.intDispatch 0 .setup) ∧ s.Undisturbed ∧ s.irqActive = false
    ∧ s.setupPending = some dtrOnPacket := by decide

theorem witness_ResetSetsEveryElement : (offer .reset tenUnread).schedule = .reset :: [] := by decide

theorem witness_ConfigureSetsTheCdcEndpoints :
    let s := offer .configure State.reset
    s.schedule = .configure :: [] ∧ s.fresh = true ∧ s.params.Legal := by decide

theorem witness_ConfigureRunsOnceWithLegalParameters :
    (let s := offer .configure cfg
     s.schedule = .configure :: [] ∧ s.fresh = false)
    ∧ (let s := offer .configure (State.powerOn { Params.standard with epOut := 1 })
       s.schedule = .configure :: [] ∧ s.fresh = true ∧ ¬ s.params.Legal) := by decide

theorem witness_ConfiguredStateMeetsTheChannelInvariants : Params.standard.Legal := by decide

/-- A step that stores a packet. -/
def storing : State := offer (.wire ⟨0x80300001, [0x61]⟩) cfg

theorem witness_EveryStepKeepsMemoryCanonical : storing.memoryWf ∧ ∃ t, step storing = .next t :=
  ⟨by decide, _, rfl⟩

theorem witness_EveryStepKeepsSetupBitsClear : storing.setupBitsClear ∧ ∃ t, step storing = .next t :=
  ⟨by decide, _, rfl⟩

theorem witness_EveryStepEndsItsHandlers :
    let s := offer (.irq ⟨0x90300000, []⟩ []) ((cfg.setEpr 3 0xE003).setRxCount 3 0)
    s.handlerEnded ∧ ∃ t, step s = .next t := ⟨by decide, _, rfl⟩

theorem witness_EveryStepKeepsTheArguments : storing.refusalRecorded ∧ ∃ t, step storing = .next t :=
  ⟨by decide, _, rfl⟩

/-- TX_SUBMIT with a packet and its dispatch falling between its lines. -/
def cleanStep : State :=
  offerTask (.cmd ⟨0x20000001, [0x41]⟩)
    [[.quiet (.wire ⟨0x80300001, [0x61]⟩)], [.irq ⟨0x90300000, []⟩ []]] cfg

theorem witness_CleanStepKeepsTheChannelInvariants :
    (cleanStep.params.Legal ∧ cleanStep.params.rxAutoNak = true ∧ cleanStep.NextTurnRearmsSafely
      ∧ cleanStep.NextTurnClean ∧ cleanStep.NextTurnDispatches ∧ cleanStep.ChannelInv
      ∧ cleanStep.TxBound ∧ cleanStep.RxWithinBuffer ∧ ∃ t, step cleanStep = .next t ∧ t.fault = none)
    ∧ (let s := offerTask (.cmd ⟨0x12000004, []⟩) [[], []] tenUnread
       s.params.Legal ∧ s.NextTurnClean ∧ (∀ tn ∈ s.schedule.head?, tn.undisturbed = true)
        ∧ s.FreshEmpty ∧ s.RxHandshake ∧ ∃ t, step s = .next t ∧ t.fault = none)
    ∧ (let s := offerTask (.cmd ⟨0x12000004, []⟩) [[.quiet (.wire ⟨0x81100000, []⟩)]]
         { tenUnread with params := { Params.standard with rxAutoNak := false } }
       s.params.Legal ∧ s.NextTurnClean
        ∧ (∀ tn ∈ s.schedule.head?, s.params.rxAutoNak = false ∧ tn.uninterrupted = true)
        ∧ s.FreshEmpty ∧ s.RxHandshake ∧ ∃ t, step s = .next t ∧ t.fault = none) :=
  ⟨⟨by decide, by decide, by decide, by decide, by decide, by decide, by decide, by decide, _, rfl, rfl⟩,
    ⟨by decide, by decide, by decide, by decide, by decide, _, rfl, rfl⟩,
    ⟨by decide, by decide, by decide, by decide, by decide, _, rfl, rfl⟩⟩

/-- A raw RX_COMPLETE as far as the point after its line 2b, a packet of no byte having come between 2a and 2b. -/
def midComplete : State := offer (.irq ⟨0x10000000, []⟩ [[], [.wire ⟨0x80300000, []⟩], []]) cfg

/-- STAT_RX: VALID read by 2a, NAK by the hardware, so 2b leaves VALID (70_reset_and_hazards.md R270); nothing is unread. -/
theorem test_irqTurnPoint :
    (match midComplete.irqTurnPoint with
      | some m => decide (m.eprAt 3 = 0xF003 ∧ m.rxUnread = 0 ∧ m.irqActive = false ∧ m.irqPort.result = none)
      | none => false) = true
    ∧ (offer (.irq ⟨0x21000000, []⟩ []) cfg).irqTurnPoint = none := by decide

/-- The channel commands meet the race of R270 under CLEAN as well (log 29): a packet comes between 7a and 7b of a re-arm of
the armed endpoint, which leaves NAK; and an IN token between 5a and 5b of TX_SUBMIT after a raw TX_COMPLETE of an armed packet,
which leaves the new packet unarmed. -/
theorem test_race_inside_channels :
    (let s := offerTask (.cmd ⟨0x12000004, []⟩) [[], [], [], [.quiet (.wire ⟨0x80300001, [0x61]⟩)]]
       (cfgOf { Params.standard with drainEmptyRearms := true })
     s.NextTurnClean ∧ sees (step s) (fun t => t.fault = none ∧ statRx (t.eprAt 3) = .nak ∧ ctrRx (t.eprAt 3)) = true)
    ∧ (let s := offerTask (.cmd ⟨0x20000001, [0x41]⟩) [[], [], [], [], [.quiet (.wire ⟨0x81100000, []⟩)]]
         ((cfg.setEpr 1 0x0031).setTxCount 1 1)
       s.NextTurnClean ∧ sees (step s) (fun t => t.fault = none ∧ t.txPending = 1 ∧ statTx (t.eprAt 1) = .nak) = true) := by
  decide

theorem witness_CleanRunsMeetTheChannelInvariants :
    Params.standard.Legal ∧ QuiescentPoint Params.standard State.NextTurnClean cfg ∧ cfg.fault = none :=
  ⟨by decide, .betweenTurns (.powerOn [] none []) rfl, rfl⟩

/-- A point inside IRQ's turn, and the runs of the last clause. -/
theorem witness_CleanStepKeepsTheChannelInvariants_points :
    (midComplete.params.Legal ∧ midComplete.NextTurnClean
      ∧ midComplete.RxBounds ∧ midComplete.RxHandshake ∧ midComplete.TxInFlight ∧ midComplete.TxBound
      ∧ ∃ m, midComplete.irqTurnPoint = some m ∧ m.fault = none ∧ m.irqActive = false)
    ∧ QuiescentPoint Params.standard
        (fun s => s.NextTurnClean ∧ s.NextTurnDispatches ∧ s.NextTurnRearmsSafely) cfg :=
  ⟨⟨by decide, by decide, by decide, by decide, by decide, by decide, _, rfl, rfl, rfl⟩,
    .betweenTurns (.powerOn [] none []) rfl⟩

/-- DRAIN_EMPTY_REARMS true: the re-arm after a packet of no byte (70_reset_and_hazards.md R273). -/
theorem witness_CleanStepKeepsTheChannelInvariants_rearm :
    let s := offerTask (.cmd ⟨0x12000004, []⟩) []
      ((cfgOf { Params.standard with drainEmptyRearms := true }).setEpr 3 0x2003)
    s.params.Legal ∧ s.NextTurnClean ∧ s.NextTurnDispatches ∧ s.NextTurnRearmsSafely
    ∧ s.params.rxAutoNak = true ∧ s.ChannelInv ∧ ∃ t, step s = .next t ∧ t.fault = none :=
  ⟨by decide, by decide, by decide, by decide, by decide, by decide, _, rfl, rfl⟩

/-! ## Steps that R54's CLEAN allows and that break R55, R56 or R57 (log 24) -/

/-- R57: the packet of two bytes is still armed when IRQ issues TX_COMPLETE (S2 lines 1 and 5 without the IN token). -/
theorem test_clean_rawTxComplete :
    let s := offer (.irq ⟨0x21000000, []⟩ []) ((cfg.setEpr 1 0x0031).setTxPending 2)
    s.NextTurnClean ∧ s.ChannelInv ∧ sees (step s) (fun t => t.fault = none ∧ ¬ t.TxInFlight) = true := by decide

/-- R55: RX_COMPLETE publishes a count that no packet on `EP_OUT` set. -/
theorem test_clean_rawRxComplete :
    let s := offer (.irq ⟨0x10000000, []⟩ []) (cfg.setRxCount 3 100)
    s.NextTurnClean ∧ s.ChannelInv ∧ sees (step s) (fun t => t.fault = none ∧ ¬ t.RxBounds) = true := by decide

/-- R56, DRAIN_EMPTY_REARMS true: a packet is dispatched before line 5 of an RX_DRAIN that found nothing. -/
theorem test_clean_emptyDrain :
    let s := offerTask (.cmd ⟨0x12000004, []⟩) [[.irq ⟨0x90300000, []⟩ []]]
      (((cfgOf { Params.standard with drainEmptyRearms := true }).setEpr 3 0xE003).setRxCount 3 1)
    s.NextTurnClean ∧ s.NextTurnDispatches ∧ s.ChannelInv
    ∧ sees (step s) (fun t => t.fault = none ∧ ¬ t.RxHandshake) = true := by decide

/-- R56, RX_AUTO_NAK false: a second packet is pending, and is dispatched after line 5 of the RX_DRAIN that takes the
first. -/
theorem test_clean_secondPacket :
    let s := offerTask (.cmd ⟨0x1200000A, []⟩) [[], [], [], [], [.irq ⟨0x90300000, []⟩ []]]
      { (tenUnread.setEpr 3 0xE003).setRxCount 3 1 with params := { Params.standard with rxAutoNak := false } }
    s.NextTurnClean ∧ s.NextTurnDispatches ∧ s.ChannelBounds ∧ s.RxHandshake
    ∧ sees (step s) (fun t => t.fault = none ∧ ¬ t.RxHandshake) = true := by decide

end Sys2Proof.Tests
end

/-! The handler flag over a step: what the lines of a command, and what falls between them, do to `irq_active`
(00_scope.md R10, 60_exceptions.md R239 to R242). -/

namespace Sys2Proof.Machine

/-! ## Calm changes and calm flows -/

/-- From `s` to `t` no handler was entered or left, and IRQ, once stopped, stays stopped. -/
abbrev State.CalmTo (s t : State) : Prop :=
  t.irqActive = s.irqActive ∧ (s.irqStopped = true → t.irqStopped = true)

theorem State.CalmTo.trans {s t u : State} (h : s.CalmTo t) (h' : t.CalmTo u) : s.CalmTo u :=
  ⟨h'.1.trans h.1, h'.2 ∘ h.2⟩

theorem State.CalmTo.handlerEnded {s t : State} (h : s.CalmTo t) (hs : s.handlerEnded) : t.handlerEnded :=
  fun ha => h.2 (hs (h.1 ▸ ha))

theorem State.handlerEnded_of_inactive {s : State} (h : s.irqActive = false) : s.handlerEnded := by
  simp [State.handlerEnded, h]

theorem State.calmTo_stop (s : State) (who : Agent) : s.CalmTo (s.stop who) := by
  cases who <;> simp [State.CalmTo, State.stop]

theorem State.calmTo_raise (s : State) (who : Agent) (f : FaultInfo) : s.CalmTo (s.raise who f) :=
  State.calmTo_stop { s with fault := s.fault.orElse fun _ => some f } who

theorem State.calmTo_refuse (s : State) (who : Agent) (r : RefusalInfo) : s.CalmTo (s.refuse who r) :=
  State.calmTo_stop { s with refused := true, refusal := s.refusal.orElse fun _ => some r } who

theorem State.calmTo_setPort (s : State) (who : Agent) (p : Port) : s.CalmTo (s.setPort who p) := by
  simp [State.CalmTo]

theorem State.calmTo_classRequestLine (s : State) (p : SetupPacket) : s.CalmTo (classRequestLine p s) := by
  unfold classRequestLine
  split <;> exact ⟨rfl, id⟩

/-- How lines that `who` runs from `s` may leave the handler flag. Lines that go on are calm. Lines that have ended are calm
and have stopped `who`, or were cut off with the handler ended, by a RESET or by IRQ stopping; a WIRE step is never cut off. -/
def Flow.Calm (who : Agent) (s : State) : Flow → Prop
  | .on t => s.CalmTo t
  | .off t => (s.CalmTo t ∧ t.stopped who = true) ∨ (who ≠ .wire ∧ t.handlerEnded)
  | .stuck _ => True

theorem Flow.calm_raise (who : Agent) (s : State) (f : FaultInfo) : (Flow.off (s.raise who f)).Calm who s :=
  .inl ⟨s.calmTo_raise who f, by simp⟩

theorem Flow.calm_refuse (who : Agent) (s : State) (r : RefusalInfo) : (Flow.off (s.refuse who r)).Calm who s :=
  .inl ⟨s.calmTo_refuse who r, by simp⟩

theorem Flow.calm_ret (who : Agent) (s : State) (r : Result) : (Flow.on (s.ret who r)).Calm who s :=
  s.calmTo_setPort who _

theorem Flow.calm_logged (who : Agent) (s : State) (r : WireRecord) :
    (Flow.on ((s.log r).ret who .unit)).Calm who s :=
  Flow.calm_ret who (s.log r) .unit

theorem Flow.Calm.after {who : Agent} {s t : State} {x : Flow} (h : s.CalmTo t) (hx : x.Calm who t) :
    x.Calm who s := by
  cases x with
  | on u => exact h.trans hx
  | off u => exact hx.imp_left fun ⟨hc, hw⟩ => ⟨h.trans hc, hw⟩
  | stuck f => trivial

theorem Flow.Calm.andThen {who : Agent} {s : State} {x : Flow} {k : State → Flow} (hx : x.Calm who s)
    (hk : ∀ t, (k t).Calm who t) : (x.andThen k).Calm who s := by
  cases x with
  | on t => exact (hk t).after hx
  | off t => exact hx
  | stuck f => trivial

theorem Flow.Calm.orRaise {α : Type} {who : Agent} {s : State} {x : Except FaultInfo α} {k : α → Flow}
    (hk : ∀ a, x = .ok a → (k a).Calm who s) : (Flow.orRaise who s x k).Calm who s := by
  cases x with
  | ok a => exact hk a rfl
  | error f => exact Flow.calm_raise who s f

/-- A WIRE step, which is never cut off, lets the command around it go on, whether or not it faults. -/
theorem Flow.Calm.rejoin {who : Agent} {s : State} {x : Flow} (hx : x.Calm .wire s) : x.rejoin.Calm who s := by
  cases x with
  | on t => exact hx
  | off t =>
    obtain ⟨hc, -⟩ | ⟨hne, -⟩ := hx
    · exact hc
    · exact absurd rfl hne
  | stuck f => trivial

theorem Flow.andThen_assoc (x : Flow) (k l : State → Flow) :
    (x.andThen k).andThen l = x.andThen fun s => (k s).andThen l := by
  cases x <;> rfl

/-- Every state a flow has come to. -/
def Flow.Reaches (x : Flow) (t : State) : Prop := x = .on t ∨ x = .off t

/-- However a calm flow stands, its handler has ended if it had before. -/
theorem Flow.Calm.handlerEnded {who : Agent} {s t : State} {x : Flow} (hx : x.Calm who s) (hs : s.handlerEnded)
    (ht : x.Reaches t) : t.handlerEnded := by
  obtain rfl | rfl := ht
  · exact State.CalmTo.handlerEnded hx hs
  · obtain ⟨hc, -⟩ | ⟨-, he⟩ := hx
    · exact hc.handlerEnded hs
    · exact he

/-! ## The lines of each command -/

section
variable {who : Agent} {gap : Gap} (hg : ∀ s, (gap s).Calm who s)

section
include hg

theorem epSetRxStatusLines_calm (ep : EpNum) (st : EpStatus) (s : State) :
    (epSetRxStatusLines ep st gap s).Calm who s :=
  (hg s).andThen fun _ => ⟨rfl, id⟩

theorem epSetTxStatusLines_calm (ep : EpNum) (st : EpStatus) (s : State) :
    (epSetTxStatusLines ep st gap s).Calm who s :=
  (hg s).andThen fun _ => ⟨rfl, id⟩

theorem epSetTypeLines_calm (ep : EpNum) (ty : EpType) (s : State) :
    (epSetTypeLines ep ty gap s).Calm who s :=
  (hg s).andThen fun _ => ⟨rfl, id⟩

theorem rxCompleteLines_calm (s : State) : (rxCompleteLines who gap s).Calm who s := by
  unfold rxCompleteLines
  split
  · exact Flow.calm_raise who s _
  · refine (hg s).andThen fun t => (epSetRxStatusLines_calm hg _ _ t).andThen fun t => (hg t).andThen fun t => ?_
    split
    · exact Flow.calm_raise who t _
    · refine Flow.Calm.orRaise fun bytes _ => Flow.Calm.orRaise fun u hu => ?_
      obtain ⟨-, rfl⟩ := State.writeRxBuf_ok hu
      exact Flow.Calm.after ⟨rfl, id⟩ ((hg _).andThen fun t => ⟨rfl, id⟩)

theorem rearmLines_calm (n : Nat) (s : State) : (rearmLines n who gap s).Calm who s := by
  refine Flow.Calm.after (t := s.setRxOffset 0) ⟨rfl, id⟩ ((hg _).andThen fun t => ?_)
  refine Flow.Calm.after (t := t.setRxCapacity t.params.epOut t.params.maxPacket) ⟨rfl, id⟩ ((hg _).andThen fun t => ?_)
  exact (epSetRxStatusLines_calm hg _ _ t).andThen fun t => Flow.calm_ret who t _

theorem rxDrainBody_calm (maxLen : Half) (data : List Byte) (s : State) :
    (rxDrainBody maxLen who gap data s).Calm who s := by
  unfold rxDrainBody
  dsimp only
  split
  · split
    · exact (hg s).andThen (rearmLines_calm hg _)
    · exact Flow.calm_ret who s _
  · refine (hg s).andThen fun t => Flow.Calm.orRaise fun bytes _ => ?_
    refine Flow.Calm.after (t.calmTo_setPort who _) ((hg (t.outData who bytes)).andThen fun t => ?_)
    refine Flow.Calm.after (t := t.setRxOffset _) ⟨rfl, id⟩ ((hg _).andThen fun t => ?_)
    refine Flow.Calm.after (t := t.setRxUnread (t.rxUnread - min maxLen.toNat s.rxUnread)) ⟨rfl, id⟩ ?_
    split
    · exact Flow.calm_ret who _ _
    · exact (hg _).andThen (rearmLines_calm hg _)

theorem txSubmitBody_calm (len : Half) (data : List Byte) (s : State) :
    (txSubmitBody len who gap data s).Calm who s := by
  unfold txSubmitBody
  dsimp only
  split
  · exact Flow.calm_ret who s _
  · refine (hg s).andThen fun t => Flow.Calm.orRaise fun u hu => ?_
    obtain ⟨-, rfl⟩ := State.writePma_ok hu
    refine Flow.Calm.after (t := t.setPma _) ⟨rfl, id⟩ ((hg _).andThen fun t => ?_)
    refine Flow.Calm.after (t := t.setTxCount _ _) ⟨rfl, id⟩ ((hg _).andThen fun t => ?_)
    refine Flow.Calm.after (t := t.setTxPending _) ⟨rfl, id⟩ ((hg _).andThen fun t => ?_)
    exact (epSetTxStatusLines_calm hg _ _ t).andThen fun t => Flow.calm_ret who t _

theorem callbackLines_calm (ep : EpNum) (src : DispatchSource) (s : State) :
    (callbackLines ep src who gap s).Calm who s := by
  unfold callbackLines
  cases src with
  | rx =>
    dsimp only
    split
    · exact rxCompleteLines_calm hg s
    · exact ⟨rfl, id⟩
  | tx =>
    dsimp only
    split <;> exact ⟨rfl, id⟩
  | setup => exact ⟨rfl, id⟩

omit hg in
theorem setupLine_calm (s : State) : (setupLine s).Calm who s := by
  unfold setupLine
  split
  · trivial
  · rename_i p _
    exact State.calmTo_classRequestLine (s.setSetupPending none) p

theorem handlerLines_calm (ep : EpNum) (src : DispatchSource) (r : Half) (s : State) :
    (handlerLines ep src r who gap s).Calm who s := by
  unfold handlerLines
  cases src with
  | rx => exact Flow.Calm.after (t := s.eprWrite ep _) ⟨rfl, id⟩ ((hg _).andThen (callbackLines_calm hg ep .rx))
  | tx => exact Flow.Calm.after (t := s.eprWrite ep _) ⟨rfl, id⟩ ((hg _).andThen (callbackLines_calm hg ep .tx))
  | setup => exact setupLine_calm s

end

/-- Lines that IRQ runs inside a handler, followed by the return from it: calm as a whole where no handler ran before. -/
theorem Flow.Calm.inHandler {s : State} {x : Flow} (hs : s.irqActive = false) (hx : x.Calm .irq s.enterHandler)
    (r : Result) : (x.andThen fun t => .on (t.leaveHandler.ret .irq r)).Calm .irq s := by
  cases x with
  | on t => exact ⟨hs.symm, hx.2⟩
  | off t =>
    obtain ⟨-, hstop⟩ | hcut := hx
    · exact .inr ⟨by decide, fun _ => hstop⟩
    · exact .inr hcut
  | stuck f => trivial

theorem intDispatchBody_calm (hg : ∀ s, (gap s).Calm .irq s) (ep : EpNum) (src : DispatchSource) (data : List Byte)
    (s : State) : (intDispatchBody ep src .irq gap data s).Calm .irq s := by
  unfold intDispatchBody
  split
  · trivial
  · rename_i hen
    have hs : s.irqActive = false := by simp_all
    have hlines := (hg s.enterHandler).andThen fun t =>
      (handlerLines_calm hg ep src (s.eprAt ep) t).andThen hg
    simpa only [Flow.andThen_assoc] using hlines.inHandler hs .unit

theorem hostOutBody_calm (ep : EpNum) (len : Half) (data : List Byte) (s : State) :
    (hostOutBody ep len who gap data s).Calm who s := by
  unfold hostOutBody
  split
  · exact Flow.calm_logged who s _
  · exact Flow.calm_logged who s _
  · exact Flow.calm_logged who s _
  · split
    · trivial
    · refine Flow.Calm.orRaise fun u hu => ?_
      obtain ⟨-, rfl⟩ := State.writePma_ok hu
      exact Flow.calm_logged who (State.setEpr _ ep _) _

theorem hostInBody_calm (ep : EpNum) (data : List Byte) (s : State) :
    (hostInBody ep who gap data s).Calm who s := by
  unfold hostInBody
  split
  · exact Flow.calm_logged who s _
  · exact Flow.calm_logged who s _
  · exact Flow.calm_logged who s _
  · exact Flow.Calm.orRaise fun bytes _ => Flow.calm_logged who (s.setEpr ep _) _

theorem hostSetupBody_calm (data : List Byte) (s : State) : (hostSetupBody who gap data s).Calm who s := by
  unfold hostSetupBody
  split
  · trivial
  · exact Flow.calm_ret who (s.setSetupPending _) .unit

include hg

/-- Every command's lines are calm for an agent that may issue it (60_exceptions.md R245), if what falls between them is. -/
theorem bodyOf_calm {i : Instr} (hi : Instr.allowedFrom who i = true) (data : List Byte) (s : State) :
    (bodyOf i who gap data s).Calm who s := by
  cases i with
  | epSetRxStatus ep st => exact (epSetRxStatusLines_calm hg ep st s).andThen fun t => Flow.calm_ret who t _
  | epSetTxStatus ep st => exact (epSetTxStatusLines_calm hg ep st s).andThen fun t => Flow.calm_ret who t _
  | epSetType ep ty => exact (epSetTypeLines_calm hg ep ty s).andThen fun t => Flow.calm_ret who t _
  | rxComplete => exact (rxCompleteLines_calm hg s).andThen fun t => Flow.calm_ret who t _
  | rxAvailable => exact Flow.calm_ret who s _
  | rxDrain maxLen => exact rxDrainBody_calm hg maxLen data s
  | txSubmit len => exact txSubmitBody_calm hg len data s
  | txComplete => exact Flow.calm_ret who (s.setTxPending 0) _
  | txPending => exact Flow.calm_ret who s _
  | ctrlSetLineState v => exact Flow.calm_ret who (setLineState v s) _
  | dtrAsserted => exact Flow.calm_ret who s _
  | rtsAsserted => exact Flow.calm_ret who s _
  | resetStateRead => exact Flow.calm_ret who s _
  | classRequest => exact (Flow.calm_ret who (classRequestLine _ s) _).after (s.calmTo_classRequestLine _)
  | enable => exact Flow.calm_refuse who s _
  | disable => exact Flow.calm_refuse who s _
  | hostOut ep len => exact hostOutBody_calm (gap := gap) ep len data s
  | hostIn ep => exact hostInBody_calm (gap := gap) ep data s
  | hostSetup => exact hostSetupBody_calm (gap := gap) data s
  | intDispatch ep src =>
    obtain rfl : who = .irq := by simpa [Instr.allowedFrom] using hi
    exact intDispatchBody_calm hg ep src data s

theorem runInstr_calm (data : List Byte) (i : Instr) (s : State) : (runInstr who gap data i s).Calm who s := by
  unfold runInstr
  split
  · exact Flow.calm_refuse who s _
  · rename_i hadm
    obtain ⟨-, -, hi, -⟩ := (State.admits_iff (s := { s with issuer := who, inData := data })).mp hadm
    exact (bodyOf_calm hg hi data _).after (s.calmTo_setPort who _)

theorem runCommand_calm (c : Command) (s : State) : (runCommand who gap c s).Calm who s := by
  unfold runCommand
  split
  · trivial
  · split
    · exact Flow.calm_refuse who s _
    · exact runInstr_calm hg c.data _ s

end

/-! ## What falls between the lines -/

theorem gapNone_calm (who : Agent) (s : State) : (Flow.on s).Calm who s := ⟨rfl, id⟩

/-- A WIRE step ends where it began as to the handler, whether or not it faults. -/
theorem quietMove_calm {who : Agent} (hw : who ≠ .wire) (q : Quiet) (s : State) : (quietMove q s).Calm who s := by
  cases q with
  | reset => exact .inr ⟨hw, State.handlerEnded_of_inactive rfl⟩
  | wire c => exact (runCommand_calm (gapNone_calm .wire) c s).rejoin

theorem quietMoves_calm {who : Agent} (hw : who ≠ .wire) (qs : List Quiet) (s : State) :
    (quietMoves qs s).Calm who s := by
  induction qs generalizing s with
  | nil => exact gapNone_calm who s
  | cons q qs ih => exact (quietMove_calm hw q s).andThen ih

theorem irqGap_calm (s : State) : (irqGap s).Calm .irq s := by
  unfold irqGap
  split
  · exact gapNone_calm .irq s
  · exact Flow.Calm.after (t := s.setGaps s.taskGaps _) ⟨rfl, id⟩ (quietMoves_calm (by decide) _ _)

/-- IRQ takes a turn only outside a handler and before a fault has stopped it. -/
theorem State.mayStep_irq {s : State} (h : s.mayStep .irq = none) : s.irqActive = false ∧ s.irqStopped = false := by
  unfold State.mayStep at h
  split at h
  · cases h
  · simp_all [State.stopped]

/-- A command of an agent that cannot step is no move. -/
theorem runCommand_stuck {who : Agent} {gap : Gap} {c : Command} {s : State} {f : Fault}
    (h : s.mayStep who = some f) : runCommand who gap c s = .stuck f := by
  rw [runCommand, h]

/-- TASK goes on after a whole IRQ command only where its handler has ended; where one has not, IRQ has stopped. -/
theorem irqMove_calm (c : Command) (gaps : List (List Quiet)) (s : State) : (irqMove c gaps s).Calm .task s := by
  unfold irqMove
  cases hm : (s.setGaps s.taskGaps gaps).mayStep .irq with
  | some f => rw [runCommand_stuck hm]; trivial
  | none =>
    obtain ⟨hact, hstop⟩ := State.mayStep_irq hm
    have hcalm := runCommand_calm irqGap_calm c (s.setGaps s.taskGaps gaps)
    have close (t : State) (ht : t.handlerEnded) :
        (if t.resets ≠ s.resets ∨ t.irqActive = true
          then Flow.off (t.setGaps t.taskGaps []) else Flow.on (t.setGaps t.taskGaps [])).Calm .task s := by
      split
      · exact .inr ⟨by decide, ht⟩
      · rename_i hgo
        have hinactive : t.irqActive = false := by simpa using fun h => hgo (.inr h)
        exact ⟨hinactive.trans hact.symm, fun h => absurd (hstop.symm.trans h) (by decide)⟩
    have hend {t : State} := hcalm.handlerEnded (t := t) (State.handlerEnded_of_inactive hact)
    cases hx : runCommand .irq irqGap c (s.setGaps s.taskGaps gaps) with
    | on t => exact close t (hend (.inl hx))
    | off t => exact close t (hend (.inr hx))
    | stuck f => trivial

theorem betweenMove_calm (b : Between) (s : State) : (betweenMove b s).Calm .task s := by
  cases b with
  | quiet q => exact quietMove_calm (by decide) q s
  | irq c gaps => exact irqMove_calm c gaps s

theorem betweenMoves_calm (bs : List Between) (s : State) : (betweenMoves bs s).Calm .task s := by
  induction bs generalizing s with
  | nil => exact gapNone_calm .task s
  | cons b bs ih => exact (betweenMove_calm b s).andThen ih

theorem taskGap_calm (s : State) : (taskGap s).Calm .task s := by
  unfold taskGap
  split
  · exact gapNone_calm .task s
  · exact Flow.Calm.after (t := s.setGaps _ s.irqGaps) ⟨rfl, id⟩ (betweenMoves_calm _ _)

theorem gapOf_calm (who : Agent) (s : State) : (gapOf who s).Calm who s := by
  cases who with
  | task => exact taskGap_calm s
  | irq => exact irqGap_calm s
  | wire => exact gapNone_calm .wire s

/-! ## Meanings, turns and steps -/

/-- A meaning is the command run by the issuer with what the schedule lists between its lines. -/
theorem exec_eq_runInstr (i : Instr) (s : State) :
    exec i s = (runInstr s.issuer (gapOf s.issuer) s.inData i s).outcome := by
  rw [exec_eq_issue, issue, runInstr]
  split <;> rfl

theorem Flow.outcome_next {x : Flow} {t : State} (h : x.outcome = .next t) : ∃ u, x.Reaches u ∧ t = u.dropGaps := by
  cases x with
  | on u => cases h; exact ⟨u, .inl rfl, rfl⟩
  | off u => cases h; exact ⟨u, .inr rfl, rfl⟩
  | stuck f => cases h

theorem exec_handlerEnded {i : Instr} {s t : State} (hs : s.handlerEnded) (h : exec i s = .next t) :
    t.handlerEnded := by
  rw [exec_eq_runInstr] at h
  obtain ⟨u, hu, rfl⟩ := Flow.outcome_next h
  have hend : u.handlerEnded := (runInstr_calm (gapOf_calm s.issuer) s.inData i s).handlerEnded hs hu
  exact hend

theorem issueWord_handlerEnded {who : Agent} {c : Command} {tg : List (List Between)} {ig : List (List Quiet)}
    {s t : State} (hs : s.handlerEnded) (h : issueWord who c tg ig s = .next t) : t.handlerEnded := by
  unfold issueWord at h
  split at h
  · cases h
    exact (State.calmTo_refuse (s.latch who c.data tg ig) who _).handlerEnded hs
  · exact exec_handlerEnded (s := s.latch ..) hs h

theorem State.calmTo_putcAfter (s : State) : s.CalmTo (putcAfter s) := by
  unfold putcAfter
  split <;> exact ⟨rfl, id⟩

theorem taskTurn_handlerEnded {gaps : List (List Between)} {s t : State} (hs : s.handlerEnded)
    (h : taskTurn gaps s = .next t) : t.handlerEnded := by
  unfold taskTurn at h
  split at h
  · cases h
  · exact issueWord_handlerEnded (s := s.setTaskNext (s.taskNext + 1)) hs h
  · split at h
    · rename_i u hu
      cases h
      exact (State.calmTo_putcAfter u).handlerEnded (issueWord_handlerEnded hs hu)
    · cases h
    · cases h

theorem configureTurn_handlerEnded {s t : State} (hs : s.handlerEnded) (h : configureTurn s = .next t) :
    t.handlerEnded := by
  unfold configureTurn at h
  split at h
  · cases h
  · split at h
    · cases h; exact hs
    · cases h

theorem takeTurn_handlerEnded {tn : Turn} {s t : State} (hs : s.handlerEnded) (h : takeTurn tn s = .next t) :
    t.handlerEnded := by
  cases tn with
  | reset => cases h; exact State.handlerEnded_of_inactive rfl
  | configure => exact configureTurn_handlerEnded hs h
  | wire c => exact issueWord_handlerEnded hs (agentTurn_next h).2
  | irq c gaps => exact issueWord_handlerEnded hs (agentTurn_next h).2
  | task gaps => exact taskTurn_handlerEnded hs (agentTurn_next h).2

/-- Settles O57: the lines of every command are calm whatever falls between them, and a handler is left within the command
that entered it unless a RESET ends it or a fault stops IRQ. -/
theorem everyStepEndsItsHandlers : Obligations.EveryStepEndsItsHandlers := by
  intro s t hs h
  unfold step at h
  split at h
  · cases h; exact hs
  · rename_i rest _
    exact takeTurn_handlerEnded (s := { s with schedule := rest }) hs h

end Sys2Proof.Machine

/-! What no step changes: the parameters, TASK's program, and the tie between `refused` and the recorded refusal
(00_scope.md R62, 60_exceptions.md R232, R235). -/

namespace Sys2Proof.Machine

/-- The arguments of a run, the parameters and TASK's program, are those of `s`. -/
abbrev State.SameRun (s t : State) : Prop :=
  t.params = s.params ∧ t.program = s.program ∧ t.programTail = s.programTail

theorem Elem.sameRun {s t : State} (h : Elem s t) : s.SameRun t := by
  cases h with
  | raised who f => exact ⟨by simp, by simp, by simp⟩
  | refused who r => exact ⟨by simp, by simp, by simp⟩
  | port who p => exact ⟨by simp, by simp, by simp⟩
  | _ => exact ⟨rfl, rfl, rfl⟩

/-- A refusal sets the mark and records its information, unless one stands there already. -/
theorem State.refusalRecorded_refuse (s : State) (who : Agent) (r : RefusalInfo) :
    (s.refuse who r).refusalRecorded := by
  cases h : s.refusal <;> simp [State.refusalRecorded, State.refuse_refusal, h]

theorem Elem.refusalRecorded {s t : State} (h : Elem s t) (hs : s.refusalRecorded) : t.refusalRecorded := by
  cases h with
  | refused who r => exact s.refusalRecorded_refuse who r
  | raised who f => simpa [State.refusalRecorded] using hs
  | port who p => simpa [State.refusalRecorded] using hs
  | _ => exact hs

theorem Change.sameRun {s t : State} (h : Change s t) : s.SameRun t := by
  cases h with
  | elem h => exact h.sameRun
  | _ => exact ⟨rfl, rfl, rfl⟩

theorem Change.refusalRecorded {s t : State} (h : Change s t) (hs : s.refusalRecorded) : t.refusalRecorded := by
  cases h with
  | elem h => exact h.refusalRecorded hs
  | _ => exact hs

theorem step_sameRun {s t : State} (h : step s = .next t) : s.SameRun t :=
  step_keeps (P := s.SameRun)
    (fun _ _ hc ⟨hp, hl, ht⟩ => hc.sameRun.imp hp.subst (And.imp hl.subst ht.subst))
    ⟨rfl, rfl, rfl⟩ h

theorem step_refusalRecorded {s t : State} (hs : s.refusalRecorded) (h : step s = .next t) : t.refusalRecorded :=
  step_keeps (fun _ _ hc => hc.refusalRecorded) hs h

/-- Settles O58: no change a step is made of touches the arguments, and the one that sets `refused` records a refusal. -/
theorem everyStepKeepsTheArguments : Obligations.EveryStepKeepsTheArguments := by
  intro s t h
  obtain ⟨hparams, hprogram, htail⟩ := step_sameRun h
  exact ⟨hparams, hprogram, htail, fun hs => step_refusalRecorded hs h⟩

end Sys2Proof.Machine

/-! The fields of an endpoint register after a bus write (10_state.md R38), and those of the words that the flow controller
writes (40_flow_control.md R131 to R133). -/

namespace Sys2Proof.Machine

/-! ## A written register, field by field -/

section
variable (o w : Half)

theorem ctrRx_eprWritten : ctrRx (eprWritten o w) = (ctrRx o && ctrRx w) := by
  simp [ctrRx, eprWritten]

theorem ctrTx_eprWritten : ctrTx (eprWritten o w) = (ctrTx o && ctrTx w) := by
  simp [ctrTx, eprWritten]

theorem dtogRx_eprWritten : dtogRx (eprWritten o w) = (dtogRx o ^^ dtogRx w) := by
  simp [dtogRx, eprWritten]

theorem dtogTx_eprWritten : dtogTx (eprWritten o w) = (dtogTx o ^^ dtogTx w) := by
  simp [dtogTx, eprWritten]

theorem setupBit_eprWritten : setupBit (eprWritten o w) = setupBit o := by
  simp [setupBit, eprWritten]

theorem epKind_eprWritten : epKind (eprWritten o w) = epKind w := by
  simp [epKind, eprWritten]

theorem epType_eprWritten : epType (eprWritten o w) = epType w := by
  have bits : (eprWritten o w).extractLsb' 9 2 = w.extractLsb' 9 2 := by
    ext i hi
    interval_cases i <;> simp [eprWritten]
  rw [epType, bits, epType]

theorem endpointAddress_eprWritten : endpointAddress (eprWritten o w) = endpointAddress w := by
  ext i hi
  interval_cases i <;> simp [endpointAddress, eprWritten]

theorem statRx_eprWritten :
    statRx (eprWritten o w) = .ofCode ((statRx o).code ^^^ (statRx w).code) := by
  have bits : (eprWritten o w).extractLsb' 12 2 = o.extractLsb' 12 2 ^^^ w.extractLsb' 12 2 := by
    ext i hi
    interval_cases i <;> simp [eprWritten]
  simp only [statRx, EpStatus.code_ofCode, bits]

theorem statTx_eprWritten :
    statTx (eprWritten o w) = .ofCode ((statTx o).code ^^^ (statTx w).code) := by
  have bits : (eprWritten o w).extractLsb' 4 2 = o.extractLsb' 4 2 ^^^ w.extractLsb' 4 2 := by
    ext i hi
    interval_cases i <;> simp [eprWritten]
  simp only [statTx, EpStatus.code_ofCode, bits]

end

/-! ## The words the commands write, field by field -/

/-- A written word that clears neither CTR flag and inverts neither data toggle. -/
abbrev LeavesFlags (w : Half) : Prop :=
  ctrRx w = true ∧ ctrTx w = true ∧ dtogRx w = false ∧ dtogTx w = false

/-- A bus write of such a word leaves the four flags as the write finds them. -/
theorem flags_eprWritten (o : Half) {w : Half} (h : LeavesFlags w) :
    ctrRx (eprWritten o w) = ctrRx o ∧ ctrTx (eprWritten o w) = ctrTx o
      ∧ dtogRx (eprWritten o w) = dtogRx o ∧ dtogTx (eprWritten o w) = dtogTx o := by
  obtain ⟨hcr, hct, hdr, hdt⟩ := h
  simp [ctrRx_eprWritten, ctrTx_eprWritten, dtogRx_eprWritten, dtogTx_eprWritten, hcr, hct, hdr, hdt]

/-- A word with STAT_RX DISABLED, the code 0, inverts no bit of it. -/
theorem statRx_eprWritten_of_disabled (o : Half) {w : Half} (h : statRx w = .disabled) :
    statRx (eprWritten o w) = statRx o := by
  rw [statRx_eprWritten, h, show EpStatus.disabled.code = 0#2 from rfl, BitVec.xor_zero, EpStatus.ofCode_code]

/-- A word with STAT_TX DISABLED, the code 0, inverts no bit of it. -/
theorem statTx_eprWritten_of_disabled (o : Half) {w : Half} (h : statTx w = .disabled) :
    statTx (eprWritten o w) = statTx o := by
  rw [statTx_eprWritten, h, show EpStatus.disabled.code = 0#2 from rfl, BitVec.xor_zero, EpStatus.ofCode_code]

section
variable (r : Half) (st : EpStatus) (ty : EpType)

theorem leavesFlags_rxStatusWord : LeavesFlags (rxStatusWord r st) := by
  simp [LeavesFlags, ctrRx, ctrTx, dtogRx, dtogTx, rxStatusWord, EPRX_KEEP, CTR_NOOP]

theorem leavesFlags_txStatusWord : LeavesFlags (txStatusWord r st) := by
  simp [LeavesFlags, ctrRx, ctrTx, dtogRx, dtogTx, txStatusWord, EPTX_KEEP, CTR_NOOP]

theorem leavesFlags_typeWord : LeavesFlags (typeWord r ty) := by
  simp [LeavesFlags, ctrRx, ctrTx, dtogRx, dtogTx, typeWord, EP_T_KEEP, CTR_NOOP]

theorem statRx_rxStatusWord : statRx (rxStatusWord r st) = .ofCode ((statRx r).code ^^^ st.code) := by
  have bits : (rxStatusWord r st).extractLsb' 12 2 = r.extractLsb' 12 2 ^^^ st.code := by
    ext i hi
    interval_cases i <;> simp [rxStatusWord, EPRX_KEEP, CTR_NOOP]
  simp only [statRx, EpStatus.code_ofCode, bits]

theorem statTx_txStatusWord : statTx (txStatusWord r st) = .ofCode ((statTx r).code ^^^ st.code) := by
  have bits : (txStatusWord r st).extractLsb' 4 2 = r.extractLsb' 4 2 ^^^ st.code := by
    ext i hi
    interval_cases i <;> simp [txStatusWord, EPTX_KEEP, CTR_NOOP]
  simp only [statTx, EpStatus.code_ofCode, bits]

theorem statTx_rxStatusWord : statTx (rxStatusWord r st) = .disabled := by
  have bits : (rxStatusWord r st).extractLsb' 4 2 = 0 := by
    ext i hi
    interval_cases i <;> simp [rxStatusWord, EPRX_KEEP, CTR_NOOP]
  rw [statTx, bits]; rfl

theorem statRx_txStatusWord : statRx (txStatusWord r st) = .disabled := by
  have bits : (txStatusWord r st).extractLsb' 12 2 = 0 := by
    ext i hi
    interval_cases i <;> simp [txStatusWord, EPTX_KEEP, CTR_NOOP]
  rw [statRx, bits]; rfl

theorem statRx_typeWord : statRx (typeWord r ty) = .disabled := by
  have bits : (typeWord r ty).extractLsb' 12 2 = 0 := by
    ext i hi
    interval_cases i <;> simp [typeWord, EP_T_KEEP, CTR_NOOP]
  rw [statRx, bits]; rfl

theorem statTx_typeWord : statTx (typeWord r ty) = .disabled := by
  have bits : (typeWord r ty).extractLsb' 4 2 = 0 := by
    ext i hi
    interval_cases i <;> simp [typeWord, EP_T_KEEP, CTR_NOOP]
  rw [statTx, bits]; rfl

theorem epType_rxStatusWord : epType (rxStatusWord r st) = epType r := by
  have bits : (rxStatusWord r st).extractLsb' 9 2 = r.extractLsb' 9 2 := by
    ext i hi
    interval_cases i <;> simp [rxStatusWord, EPRX_KEEP, CTR_NOOP]
  rw [epType, bits, epType]

theorem epType_txStatusWord : epType (txStatusWord r st) = epType r := by
  have bits : (txStatusWord r st).extractLsb' 9 2 = r.extractLsb' 9 2 := by
    ext i hi
    interval_cases i <;> simp [txStatusWord, EPTX_KEEP, CTR_NOOP]
  rw [epType, bits, epType]

theorem epType_typeWord : epType (typeWord r ty) = ty := by
  have bits : (typeWord r ty).extractLsb' 9 2 = ty.code := by
    ext i hi
    interval_cases i <;> simp [typeWord, EP_T_KEEP, CTR_NOOP]
  rw [epType, bits, EpType.ofCode_code]

theorem epKind_rxStatusWord : epKind (rxStatusWord r st) = epKind r := by
  simp [epKind, rxStatusWord, EPRX_KEEP, CTR_NOOP]

theorem epKind_txStatusWord : epKind (txStatusWord r st) = epKind r := by
  simp [epKind, txStatusWord, EPTX_KEEP, CTR_NOOP]

theorem epKind_typeWord : epKind (typeWord r ty) = epKind r := by
  simp [epKind, typeWord, EP_T_KEEP, CTR_NOOP]

theorem endpointAddress_rxStatusWord : endpointAddress (rxStatusWord r st) = endpointAddress r := by
  ext i hi
  interval_cases i <;> simp [endpointAddress, rxStatusWord, EPRX_KEEP, CTR_NOOP]

theorem endpointAddress_txStatusWord : endpointAddress (txStatusWord r st) = endpointAddress r := by
  ext i hi
  interval_cases i <;> simp [endpointAddress, txStatusWord, EPTX_KEEP, CTR_NOOP]

theorem endpointAddress_typeWord : endpointAddress (typeWord r ty) = endpointAddress r := by
  ext i hi
  interval_cases i <;> simp [endpointAddress, typeWord, EP_T_KEEP, CTR_NOOP]

end

/-! ## The race of a status command (70_reset_and_hazards.md R270) -/

theorem EpStatus.code_injective : Function.Injective EpStatus.code :=
  Function.LeftInverse.injective EpStatus.ofCode_code

/-- The status that a toggle write leaves where it finds `o`, the word having been made from `r` for the target `st`: the XOR
of the three, which is the target if nothing came in between. -/
theorem EpStatus.toggled (r o st : EpStatus) :
    let n := EpStatus.ofCode (o.code ^^^ (EpStatus.ofCode (r.code ^^^ st.code)).code)
    n.code = r.code ^^^ o.code ^^^ st.code ∧ (o = r → n = st) := by
  have hcode : (EpStatus.ofCode (o.code ^^^ (EpStatus.ofCode (r.code ^^^ st.code)).code)).code
      = r.code ^^^ o.code ^^^ st.code := by
    rw [EpStatus.code_ofCode, EpStatus.code_ofCode, ← BitVec.xor_assoc, BitVec.xor_comm o.code]
  exact ⟨hcode, fun h => EpStatus.code_injective (by rw [hcode, h, BitVec.xor_self, BitVec.zero_xor])⟩

section
variable {s m : State} (ep : EpNum) (hm : gapOf s.issuer (s.clearPort s.issuer) = .on m)
include hm

/-- EP_SET_RX_STATUS, whatever falls between its lines: line 2 writes to what it finds the word made from what line 1 read. -/
theorem exec_epSetRxStatus_of_gap {st : EpStatus} (ha : s.Admits (.epSetRxStatus ep st)) :
    exec (.epSetRxStatus ep st) s =
      .next (((m.setEpr ep (eprWritten (m.eprAt ep) (rxStatusWord (s.eprAt ep) st))).ret s.issuer .unit).dropGaps) := by
  simp [exec_of_admits ha, bodyOf, epSetRxStatusBody, epSetRxStatusLines, hm, State.eprWrite]

theorem exec_epSetTxStatus_of_gap {st : EpStatus} (ha : s.Admits (.epSetTxStatus ep st)) :
    exec (.epSetTxStatus ep st) s =
      .next (((m.setEpr ep (eprWritten (m.eprAt ep) (txStatusWord (s.eprAt ep) st))).ret s.issuer .unit).dropGaps) := by
  simp [exec_of_admits ha, bodyOf, epSetTxStatusBody, epSetTxStatusLines, hm, State.eprWrite]

theorem exec_epSetType_of_gap {ty : EpType} (ha : s.Admits (.epSetType ep ty)) :
    exec (.epSetType ep ty) s =
      .next (((m.setEpr ep (eprWritten (m.eprAt ep) (typeWord (s.eprAt ep) ty))).ret s.issuer .unit).dropGaps) := by
  simp [exec_of_admits ha, bodyOf, epSetTypeBody, epSetTypeLines, hm, State.eprWrite]

end

/-- Settles O15, field by field of the word that line 2 writes: STAT_RX toggles, the flags and STAT_TX are left, the
read-write fields are stored. -/
theorem epSetRxStatusUnderInterference : Obligations.EpSetRxStatusUnderInterference := by
  intro s m ep st ha hm r o
  obtain ⟨hcr, hct, hdr, hdt⟩ := flags_eprWritten o (leavesFlags_rxStatusWord r st)
  obtain ⟨hxor, hsame⟩ := EpStatus.toggled (statRx r) (statRx o) st
  rw [← statRx_rxStatusWord r st, ← statRx_eprWritten] at hxor hsame
  exact ⟨_, exec_epSetRxStatus_of_gap ep hm ha, hxor, hsame, hcr, hct, hdr, hdt,
    statTx_eprWritten_of_disabled o (statTx_rxStatusWord r st), setupBit_eprWritten o _,
    (epType_eprWritten o _).trans (epType_rxStatusWord r st),
    (epKind_eprWritten o _).trans (epKind_rxStatusWord r st),
    (endpointAddress_eprWritten o _).trans (endpointAddress_rxStatusWord r st)⟩

/-- Settles O16, as O15 with the two statuses exchanged: STAT_TX toggles, STAT_RX is left. -/
theorem epSetTxStatusUnderInterference : Obligations.EpSetTxStatusUnderInterference := by
  intro s m ep st ha hm r o
  obtain ⟨hcr, hct, hdr, hdt⟩ := flags_eprWritten o (leavesFlags_txStatusWord r st)
  obtain ⟨hxor, hsame⟩ := EpStatus.toggled (statTx r) (statTx o) st
  rw [← statTx_txStatusWord r st, ← statTx_eprWritten] at hxor hsame
  exact ⟨_, exec_epSetTxStatus_of_gap ep hm ha, hxor, hsame, hcr, hct, hdr, hdt,
    statRx_eprWritten_of_disabled o (statRx_txStatusWord r st), setupBit_eprWritten o _,
    (epType_eprWritten o _).trans (epType_txStatusWord r st),
    (epKind_eprWritten o _).trans (epKind_txStatusWord r st),
    (endpointAddress_eprWritten o _).trans (endpointAddress_txStatusWord r st)⟩

/-- Settles O17: EP_TYPE is stored with the other read-write fields, and the word toggles neither status. -/
theorem epSetTypeUnderInterference : Obligations.EpSetTypeUnderInterference := by
  intro s m ep ty ha hm r o
  obtain ⟨hcr, hct, hdr, hdt⟩ := flags_eprWritten o (leavesFlags_typeWord r ty)
  exact ⟨_, exec_epSetType_of_gap ep hm ha,
    (epType_eprWritten o _).trans (epType_typeWord r ty),
    (epKind_eprWritten o _).trans (epKind_typeWord r ty),
    (endpointAddress_eprWritten o _).trans (endpointAddress_typeWord r ty), hcr, hct, hdr, hdt,
    statRx_eprWritten_of_disabled o (statRx_typeWord r ty),
    statTx_eprWritten_of_disabled o (statTx_typeWord r ty), setupBit_eprWritten o _⟩

end Sys2Proof.Machine

/-! The turns of the schedule: when an agent may step, and what its turn issues (00_scope.md R10, R18). -/

namespace Sys2Proof.Machine

/-! ## When an agent may step -/

section
variable {s : State} {who : Agent}

theorem State.mayStep_of_stopped (h : s.stopped who = true) : s.mayStep who = some (.agentStopped who) := by
  simp [State.mayStep, h]

/-- Software waits for a handler to end. -/
theorem State.mayStep_of_handler (hw : who ≠ .wire) (hs : s.stopped who = false) (ha : s.irqActive = true) :
    s.mayStep who = some .handlerRunning := by
  cases who with
  | task | irq => simp [State.mayStep, hs, ha]
  | wire => exact absurd rfl hw

theorem State.mayStep_of_ready (hs : s.stopped who = false) (ha : who ≠ .wire → s.irqActive = false) :
    s.mayStep who = none := by
  cases who with
  | task | irq => simp [State.mayStep, hs, ha]
  | wire => simp [State.mayStep, hs]

theorem agentTurn_of_fault {f : Fault} (h : s.mayStep who = some f) (k : Host.Outcome State Fault Refusal) :
    agentTurn who s k = .fault f := by
  rw [agentTurn, h]

end

/-! ## What a turn issues -/

section
variable {who : Agent} {c : Command} {tg : List (List Between)} {ig : List (List Quiet)} {s : State}

theorem issueWord_of_ok {i : Instr} (h : decode c.word = .ok i) :
    issueWord who c tg ig s = exec i (s.latch who c.data tg ig) := by
  rw [issueWord, h]

theorem issueWord_of_error {e : DecodeError} (h : decode c.word = .error e) :
    issueWord who c tg ig s = .next ((s.latch who c.data tg ig).refusedWith (.illegalCommand c.word)) := by
  rw [issueWord, h]; rfl

end

theorem taskTurn_cmd {s : State} {c : Command} (h : s.nextItem = some (.cmd c)) (gaps : List (List Between)) :
    taskTurn gaps s = issueWord .task c gaps [] (s.setTaskNext (s.taskNext + 1)) := by
  rw [taskTurn, h]

/-- A command word issued by an agent: its decoded command is executed, or the word is refused (30_encoding.md R117). -/
theorem issueWord_spec (who : Agent) (c : Command) (tg : List (List Between)) (ig : List (List Quiet)) (s : State) :
    let u := s.latch who c.data tg ig
    (∀ i, decode c.word = .ok i → issueWord who c tg ig s = exec i u)
      ∧ ∀ e, decode c.word = .error e → issueWord who c tg ig s = .next (u.refusedWith (.illegalCommand c.word)) :=
  ⟨fun _ => issueWord_of_ok, fun _ => issueWord_of_error⟩

/-- Whether an agent may step does not depend on the schedule. -/
theorem State.mayStep_schedule (s : State) (ts : List Turn) (who : Agent) :
    ({ s with schedule := ts } : State).mayStep who = s.mayStep who := by
  cases who <;> rfl

section
variable {s : State} {tn : Turn} {rest : List Turn} {who : Agent} {k : State → Host.Outcome State Fault Refusal}
  (hturn : ∀ u, takeTurn tn u = agentTurn who u (k u)) (h : s.schedule = tn :: rest)
include hturn h

/-- The turn of an agent that may step is taken. -/
theorem step_of_mayStep (hm : s.mayStep who = none) : step s = k { s with schedule := rest } := by
  rw [step_of_turn h, hturn, agentTurn_of_mayStep (by rwa [State.mayStep_schedule])]

/-- The turn of an agent that may not step stops the machine with the reason (log 4). -/
theorem step_of_mayNotStep {f : Fault} (hf : s.mayStep who = some f) : step s = .fault f := by
  rw [step_of_turn h, hturn, agentTurn_of_fault (by rwa [State.mayStep_schedule])]

end

/-- TASK's turn comes, if TASK has not stopped and no handler runs. -/
theorem step_task {s : State} {gaps : List (List Between)} {rest : List Turn} (h : s.schedule = .task gaps :: rest)
    (hs : s.taskStopped = false) (ha : s.irqActive = false) : step s = taskTurn gaps { s with schedule := rest } :=
  step_of_mayStep (fun _ => rfl) h (State.mayStep_of_ready (who := .task) hs fun _ => ha)

/-- Settles O6: the agent's turn comes down to `issueWord`, for TASK with its program advanced, and `issueWord` to `exec`. -/
theorem stepIssuesTheDecodedCommand : Obligations.StepIssuesTheDecodedCommand := by
  refine ⟨fun s gaps rest c h hs ha hc => ?_, fun s gaps rest c h hs ha => ?_, fun s rest c h hs => ?_⟩
  · rw [step_task h hs ha, taskTurn_cmd (s := { s with schedule := rest }) hc gaps]
    exact issueWord_spec .task c gaps [] _
  · rw [step_of_mayStep (fun _ => rfl) h (State.mayStep_of_ready (who := .irq) hs fun _ => ha)]
    exact issueWord_spec .irq c [] gaps _
  · rw [step_of_mayStep (fun _ => rfl) h (State.mayStep_of_ready (who := .wire) hs (absurd rfl))]
    exact issueWord_spec .wire c [] [] _

/-- Settles O7: the reason an agent may not step is what its turn answers; past the end of a finite program there is no next
item, and an infinite one has no end. -/
theorem stoppedAgentsTakeNoTurn : Obligations.StoppedAgentsTakeNoTurn := by
  refine ⟨fun s gaps rest h => ⟨fun hs => ?_, fun hs ha => ?_⟩, fun s c gaps rest h => ⟨fun hs => ?_, fun hs ha => ?_⟩,
    fun s c rest h hs => ?_, fun s gaps rest h hs ha ht hl => ?_, fun s k => s.nextItem_of_tail⟩
  · exact step_of_mayNotStep (fun _ => rfl) h (State.mayStep_of_stopped (who := .task) hs)
  · exact step_of_mayNotStep (fun _ => rfl) h (State.mayStep_of_handler (who := .task) (by decide) hs ha)
  · exact step_of_mayNotStep (fun _ => rfl) h (State.mayStep_of_stopped (who := .irq) hs)
  · exact step_of_mayNotStep (fun _ => rfl) h (State.mayStep_of_handler (who := .irq) (by decide) hs ha)
  · exact step_of_mayNotStep (fun _ => rfl) h (State.mayStep_of_stopped (who := .wire) hs)
  · have hnone : s.nextItem = none := s.item_over ht hl
    rw [step_task h hs ha, taskTurn_over (s := { s with schedule := rest }) hnone]

/-! ## CONFIGURE's turn -/

theorem configureTurn_tooLate {s : State} (h : s.fresh = false) : configureTurn s = .fault .configureTooLate := by
  rw [configureTurn, if_pos h]

theorem configureTurn_illegal {s : State} (hf : s.fresh = true) (hl : ¬ s.params.Legal) :
    configureTurn s = .refused .illegalParameters := by
  rw [configureTurn, if_neg (by simp [hf]), if_neg hl]

/-- Settles O52: `fresh` and the parameters are those of the state before the turn was taken. -/
theorem configureRunsOnceWithLegalParameters : Obligations.ConfigureRunsOnceWithLegalParameters := by
  intro s rest h
  rw [step_of_turn h]
  exact ⟨configureTurn_tooLate (s := { s with schedule := rest }), configureTurn_illegal (s := { s with schedule := rest })⟩

end Sys2Proof.Machine

/-! What every step keeps of the marks, the memories and the SETUP bits (10_state.md R37, R52, log 10), by the changes a step
is made of. -/

namespace Sys2Proof.Machine

/-! ## The marks of faults and refusals (10_state.md R52) -/

/-- A recorded fault stays that fault, and `refused` stays set. -/
abbrev State.MarksKept (s t : State) : Prop :=
  (∀ f, s.fault = some f → t.fault = some f) ∧ (s.refused = true → t.refused = true)

theorem State.marksKept_raise (s : State) (who : Agent) (f : FaultInfo) : s.MarksKept (s.raise who f) :=
  ⟨fun g hg => by simp [State.raise_fault, hg], by simp⟩

theorem State.marksKept_refuse (s : State) (who : Agent) (r : RefusalInfo) : s.MarksKept (s.refuse who r) :=
  ⟨by simp, by simp⟩

theorem State.MarksKept.trans {s t u : State} (h : s.MarksKept t) (h' : t.MarksKept u) : s.MarksKept u :=
  ⟨fun f hf => h'.1 f (h.1 f hf), h'.2 ∘ h.2⟩

theorem Elem.marksKept {s t : State} (h : Elem s t) : s.MarksKept t := by
  cases h with
  | raised who f => exact s.marksKept_raise who f
  | refused who r => exact s.marksKept_refuse who r
  | port who p => exact ⟨by simp, by simp⟩
  | _ => exact ⟨fun _ => id, id⟩

theorem Change.marksKept {s t : State} (h : Change s t) : s.MarksKept t := by
  cases h with
  | elem h => exact h.marksKept
  | _ => exact ⟨fun _ => id, id⟩

theorem step_marksKept {s t : State} (h : step s = .next t) : s.MarksKept t :=
  step_keeps (P := s.MarksKept) (fun _ _ hc hu => hu.trans hc.marksKept) ⟨fun _ => id, id⟩ h

/-- Settles O13: of all the changes a step is made of only a fault and a refusal touch the marks, and neither clears one. -/
theorem faultAndRefusedAreNeverCleared : Obligations.FaultAndRefusedAreNeverCleared := by
  refine ⟨fun s who f h => ?_, fun s who r => by simp, fun s t h => step_marksKept h⟩
  simp [State.raise_fault, h]

/-! ## The canonical form of the memories (log 10) -/

theorem Elem.memoryWf {s t : State} (h : Elem s t) (hs : s.memoryWf) : t.memoryWf := by
  cases h with
  | pmaBytes a bs => exact ⟨Memory.wf_storeBytes hs.1 a bs, hs.2⟩
  | rxBufBytes a bs => exact ⟨hs.1, Memory.wf_storeBytes hs.2 a bs⟩
  | reset => exact ⟨Memory.wf_nil, Memory.wf_nil⟩
  | raised who f => simpa [State.memoryWf] using hs
  | refused who r => simpa [State.memoryWf] using hs
  | port who p => simpa [State.memoryWf] using hs
  | _ => exact hs

theorem Change.memoryWf {s t : State} (h : Change s t) (hs : s.memoryWf) : t.memoryWf := by
  cases h with
  | elem h => exact h.memoryWf hs
  | _ => exact hs

/-- Settles O55: the two changes that write a memory store bytes in canonical form, and a RESET empties both. -/
theorem everyStepKeepsMemoryCanonical : Obligations.EveryStepKeepsMemoryCanonical :=
  fun _ _ hs h => step_keeps (fun _ _ hc => hc.memoryWf) hs h

/-! ## The SETUP bits (10_state.md R37) -/

theorem setupBit_afterOutAccepted (autoNak : Bool) (r : Half) :
    setupBit (afterOutAccepted autoNak r) = setupBit r := by
  cases autoNak <;> simp [setupBit, afterOutAccepted, withStatRx, EPRX_STAT, EpStatus.code]

theorem setupBit_afterInSent (r : Half) : setupBit (afterInSent r) = setupBit r := by
  simp [setupBit, afterInSent, withStatTx, EPTX_STAT, EpStatus.code]

theorem State.setupBitsClear_setEpr {s : State} (hs : s.setupBitsClear) {ep : EpNum} {v : Half}
    (hv : setupBit v = false) : (s.setEpr ep v).setupBitsClear := by
  intro e
  by_cases he : e = ep
  · subst he; simpa using hv
  · rw [State.eprAt_setEpr_other _ _ he]; exact hs e

/-- The address field of an endpoint register is below the SETUP bit. -/
theorem setupBit_or_address (v : Half) (ep : EpNum) : setupBit (v ||| ep.setWidth 16) = setupBit v := by
  simp [setupBit]

theorem State.setupBitsClear_configure {s : State} (hs : s.setupBitsClear) : s.configure.setupBitsClear :=
  State.setupBitsClear_setEpr (ep := s.params.epNotify) (v := 0x0620 ||| s.params.epNotify.setWidth 16)
    (State.setupBitsClear_setEpr (State.setupBitsClear_setEpr (State.setupBitsClear_setEpr hs (by decide))
      (by rw [setupBit_or_address]; decide)) (by rw [setupBit_or_address]; decide))
    (by rw [setupBit_or_address]; decide)

@[simp] theorem State.eprAt_doReset (s : State) (ep : EpNum) : s.doReset.eprAt ep = 0 := by
  simp [State.doReset, State.powerOn, State.eprAt]

theorem Elem.setupBitsClear {s t : State} (h : Elem s t) (hs : s.setupBitsClear) : t.setupBitsClear := by
  cases h with
  | busWrite ep w => exact State.setupBitsClear_setEpr hs (by rw [setupBit_eprWritten]; exact hs ep)
  | outAccepted ep autoNak => exact State.setupBitsClear_setEpr hs (by rw [setupBit_afterOutAccepted]; exact hs ep)
  | inSent ep => exact State.setupBitsClear_setEpr hs (by rw [setupBit_afterInSent]; exact hs ep)
  | reset => intro ep; rw [State.eprAt_doReset]; decide
  | raised who f => simpa [State.setupBitsClear] using hs
  | refused who r => simpa [State.setupBitsClear] using hs
  | port who p => simpa [State.setupBitsClear] using hs
  | _ => exact hs

theorem Change.setupBitsClear {s t : State} (h : Change s t) (hs : s.setupBitsClear) : t.setupBitsClear := by
  cases h with
  | elem h => exact h.setupBitsClear hs
  | configure => exact State.setupBitsClear_configure hs
  | _ => exact hs

/-- Settles O56: a bus write and the hardware's updates keep the bit of the register they replace, CONFIGURE and RESET write
registers without it. -/
theorem everyStepKeepsSetupBitsClear : Obligations.EveryStepKeepsSetupBitsClear :=
  fun _ _ hs h => step_keeps (fun _ _ hc => hc.setupBitsClear) hs h

end Sys2Proof.Machine

/-! Endpoint registers under a bus write and under the hardware's own updates, and the steps of the WIRE agent on them
(10_state.md R38, 44_wire_events.md R211, R214). -/

namespace Sys2Proof.Machine

/-! ## A bus write -/

/-- Settles O14: the write rule is R38's expression, and each field is read off it bit by bit. -/
theorem busWriteFollowsAccessKinds : Obligations.BusWriteFollowsAccessKinds := by
  intro s ep w o n
  have hn : n = eprWritten o w := s.eprAt_eprWrite_same ep w
  refine ⟨by rw [hn]; rfl, hn, ?_, ?_, ?_, ?_, ?_, ?_, ?_, fun e he => s.eprAt_eprWrite_other w he⟩ <;> rw [hn]
  · exact ctrRx_eprWritten o w
  · ext i hi
    interval_cases i <;> simp [eprWritten]
  · exact setupBit_eprWritten o w
  · ext i hi
    interval_cases i <;> simp [eprWritten]
  · exact ctrTx_eprWritten o w
  · ext i hi
    interval_cases i <;> simp [eprWritten]
  · exact endpointAddress_eprWritten o w

/-! ## Registers that agree on some bits -/

/-- Registers that agree on the bits of a field have that field in common. -/
theorem extractLsb'_congr {r r' : Half} {start len : Nat}
    (h : ∀ i, start ≤ i → i < start + len → r'.getLsbD i = r.getLsbD i) :
    r'.extractLsb' start len = r.extractLsb' start len := by
  ext i hi
  simpa using h (start + i) (by omega) (by omega)

/-- The fields of bits 11:0: SETUP, EP_TYPE, EP_KIND, the transmit side, EA. -/
theorem fields_of_low {r r' : Half} (h : ∀ i, i < 12 → r'.getLsbD i = r.getLsbD i) :
    ctrTx r' = ctrTx r ∧ dtogTx r' = dtogTx r ∧ statTx r' = statTx r ∧ setupBit r' = setupBit r
      ∧ epType r' = epType r ∧ epKind r' = epKind r ∧ endpointAddress r' = endpointAddress r :=
  ⟨h 7 (by omega), h 6 (by omega), congrArg EpStatus.ofCode (extractLsb'_congr fun i _ _ => h i (by omega)),
    h 11 (by omega), congrArg EpType.ofCode (extractLsb'_congr fun i _ _ => h i (by omega)), h 8 (by omega),
    extractLsb'_congr fun i _ _ => h i (by omega)⟩

/-- The fields outside bits 7:4: the receive side, SETUP, EP_TYPE, EP_KIND, EA. -/
theorem fields_of_outer {r r' : Half} (h : ∀ i, i < 4 ∨ 8 ≤ i → r'.getLsbD i = r.getLsbD i) :
    ctrRx r' = ctrRx r ∧ dtogRx r' = dtogRx r ∧ statRx r' = statRx r ∧ setupBit r' = setupBit r
      ∧ epType r' = epType r ∧ epKind r' = epKind r ∧ endpointAddress r' = endpointAddress r :=
  ⟨h 15 (by omega), h 14 (by omega), congrArg EpStatus.ofCode (extractLsb'_congr fun i _ _ => h i (by omega)),
    h 11 (by omega), congrArg EpType.ofCode (extractLsb'_congr fun i _ _ => h i (by omega)), h 8 (by omega),
    extractLsb'_congr fun i _ _ => h i (by omega)⟩

/-! ## The hardware's own updates -/

section
variable (autoNak : Bool) (r : Half)

theorem ctrRx_afterOutAccepted : ctrRx (afterOutAccepted autoNak r) = true := by
  simp [ctrRx, afterOutAccepted]

theorem dtogRx_afterOutAccepted : dtogRx (afterOutAccepted autoNak r) = !dtogRx r := by
  cases autoNak <;> simp [dtogRx, afterOutAccepted, withStatRx, EPRX_STAT, EpStatus.code]

theorem statRx_afterOutAccepted : statRx (afterOutAccepted autoNak r) = if autoNak then .nak else statRx r := by
  cases autoNak with
  | true =>
    have bits : (afterOutAccepted true r).extractLsb' 12 2 = EpStatus.nak.code := by
      ext i hi
      interval_cases i <;> simp [afterOutAccepted, withStatRx, EPRX_STAT, EpStatus.code]
    rw [statRx, bits]; rfl
  | false =>
    have bits : (afterOutAccepted false r).extractLsb' 12 2 = r.extractLsb' 12 2 := by
      ext i hi
      interval_cases i <;> simp [afterOutAccepted]
    rw [statRx, bits]; rfl

theorem getLsbD_afterOutAccepted (i : Nat) (hi : i < 12) : (afterOutAccepted autoNak r).getLsbD i = r.getLsbD i := by
  cases autoNak <;> interval_cases i <;> simp [afterOutAccepted, withStatRx, EPRX_STAT, EpStatus.code]

theorem ctrTx_afterInSent : ctrTx (afterInSent r) = true := by
  simp [ctrTx, afterInSent]

theorem dtogTx_afterInSent : dtogTx (afterInSent r) = !dtogTx r := by
  simp [dtogTx, afterInSent, withStatTx, EPTX_STAT, EpStatus.code]

theorem statTx_afterInSent : statTx (afterInSent r) = .nak := by
  have bits : (afterInSent r).extractLsb' 4 2 = EpStatus.nak.code := by
    ext i hi
    interval_cases i <;> simp [afterInSent, withStatTx, EPTX_STAT, EpStatus.code]
  rw [statTx, bits]; rfl

theorem getLsbD_afterInSent (i : Nat) (hi : i < 4 ∨ 8 ≤ i) : (afterInSent r).getLsbD i = r.getLsbD i := by
  by_cases h16 : i < 16
  · interval_cases i <;> simp_all [afterInSent, withStatTx, EPTX_STAT, EpStatus.code]
  · rw [BitVec.getLsbD_of_ge _ _ (by omega), BitVec.getLsbD_of_ge _ _ (by omega)]

end

/-! ## The steps of the WIRE agent -/

section
variable {s : State} {ep : EpNum} {len : Half} {gap : Gap} {who : Agent} {data : List Byte}

/-- HOST_OUT to an armed endpoint of a packet that fits the capacity and packet memory. -/
theorem hostOutBody_accepts (hv : statRx (s.eprAt ep) = .valid) (hlen : len.toNat ≤ (s.bdtAt ep).rxCapacity.val)
    (hmem : (s.bdtAt ep).rxAddr.toNat + data.length ≤ s.params.pmaSize) :
    hostOutBody ep len who gap data s =
      .on (((((s.setPma (s.pma.storeBytes (s.bdtAt ep).rxAddr.toNat data)).setRxCount ep len.toNat).setEpr ep
        (afterOutAccepted s.params.rxAutoNak (s.eprAt ep))).log (.outAck ep data)).ret who .unit) := by
  rw [hostOutBody, hv]
  simp only [if_neg (Nat.not_lt.mpr hlen), State.writePma_eq hmem, Flow.orRaise_ok]
  simp

/-- HOST_IN to an armed endpoint whose packet lies in packet memory. -/
theorem hostInBody_sends (hv : statTx (s.eprAt ep) = .valid)
    (hmem : (s.bdtAt ep).txAddr.toNat + (s.bdtAt ep).txCount.toNat ≤ s.params.pmaSize) :
    hostInBody ep who gap data s =
      .on (((s.setEpr ep (afterInSent (s.eprAt ep))).log (.inData ep ((List.range (s.bdtAt ep).txCount.toNat).map
        fun k => s.pmaByte ((s.bdtAt ep).txAddr.toNat + k)))).ret who .unit) := by
  rw [hostInBody, hv]
  simp only [State.readPma_eq hmem, Flow.orRaise_ok]

theorem hostInBody_beyond (hv : statTx (s.eprAt ep) = .valid)
    (hmem : s.params.pmaSize < (s.bdtAt ep).txAddr.toNat + (s.bdtAt ep).txCount.toNat) :
    hostInBody ep who gap data s =
      .off (s.raise who (.pmaRange (s.bdtAt ep).txAddr.toNat (s.bdtAt ep).txCount.toNat)) := by
  rw [hostInBody, hv]
  simp only [State.readPma_beyond hmem, Flow.orRaise_error]

end

/-- Settles O37: each of the three statuses is one line, the record. -/
theorem hostOutIsAnsweredByStatus : Obligations.HostOutIsAnsweredByStatus := by
  intro s ep len hw ha
  refine ⟨fun h => ?_, fun h => ?_, fun h => ?_⟩ <;>
  · rw [exec_of_admits ha, hw, bodyOf, hostOutBody, State.clearPort_eprAt, h, State.returned, State.log_issuer, hw]
    rfl

/-- Settles O40: each of the three statuses is one line, the record. -/
theorem hostInIsAnsweredByStatus : Obligations.HostInIsAnsweredByStatus := by
  intro s ep hw ha
  refine ⟨fun h => ?_, fun h => ?_, fun h => ?_⟩ <;>
  · rw [exec_of_admits ha, hw, bodyOf, hostInBody, State.clearPort_eprAt, h, State.returned, State.log_issuer, hw]
    rfl

/-- Settles O38: the memory is packet memory with the packet stored, the register the one an accepted packet leaves. -/
theorem hostOutAcceptsAPacket : Obligations.HostOutAcceptsAPacket := by
  intro s ep len hw ha hv addr o hcap hmem
  have hlen : s.inData.length = len.toNat := (State.admits_iff.mp ha).2.2.2.1
  have hbyte := s.pmaByte_storeBytes addr s.inData
  obtain ⟨hct, hdt, hst, hsu, hty, hki, hea⟩ :=
    fields_of_low (getLsbD_afterOutAccepted s.params.rxAutoNak o)
  refine ⟨s.pma.storeBytes addr s.inData, afterOutAccepted s.params.rxAutoNak o, ?_, fun k hk => ?_, fun a ha => ?_,
    ctrRx_afterOutAccepted _ o, dtogRx_afterOutAccepted _ o, hv ▸ statRx_afterOutAccepted _ o,
    hct, hdt, hst, hsu, hty, hki, hea⟩
  · rw [exec_of_admits ha, hw, bodyOf, hostOutBody_accepts (by simpa) (by simpa) (by simpa [hlen]), State.returned]
    simp [hw]
    rfl
  · rw [hbyte, dif_pos (by omega), List.getElem?_eq_getElem (by omega)]
    simp
  · rw [hbyte, dif_neg (by omega)]

/-- Settles O41: inside packet memory the register is the one a sent packet leaves; beyond it the read faults. -/
theorem hostInSendsThePacket : Obligations.HostInSendsThePacket := by
  intro s ep hw ha hv addr count o
  obtain ⟨hcr, hdr, hsr, hsu, hty, hki, hea⟩ := fields_of_outer (getLsbD_afterInSent o)
  refine ⟨fun hmem => ⟨afterInSent o, ?_, ctrTx_afterInSent o, dtogTx_afterInSent o, statTx_afterInSent o,
    hcr, hdr, hsr, hsu, hty, hki, hea⟩, fun hmem => ?_⟩
  · rw [exec_of_admits ha, hw, bodyOf, hostInBody_sends (by simpa) (by simpa), State.returned]
    simp [hw]
    rfl
  · rw [exec_of_admits ha, hw, bodyOf, hostInBody_beyond (by simpa) (by simpa)]
    simp [State.faulted, hw, addr, count]

end Sys2Proof.Machine

/-! The states after RESET and after CONFIGURE (10_state.md R59, 70_reset_and_hazards.md R260, R262, R264). -/

namespace Sys2Proof.Machine

/-! ## RESET -/

@[simp] theorem State.bdtAt_doReset (s : State) (ep : EpNum) :
    s.doReset.bdtAt ep = Descriptor.drawn (s.resets + 1) ep.toNat := by
  simp [State.doReset, State.bdtAt]

@[simp] theorem State.eprAt_powerOn (p : Params) (ep : EpNum) : (State.powerOn p).eprAt ep = 0 := by
  simp [State.powerOn, State.eprAt]

/-- Registers of 0 and no SETUP packet make no request. -/
theorem State.requestPending_of_blank {s : State} (he : ∀ ep, s.eprAt ep = 0) (hs : s.setupPending = none)
    (ep : EpNum) (src : DispatchSource) : s.requestPending ep src = false := by
  cases src <;> simp [State.requestPending, he, hs, ctrRx, ctrTx]

/-- Settles O50: the turn's next state is `doReset`, whose elements are those of power-on but for the new draws, the marks
and what the schedule keeps. -/
theorem resetSetsEveryElement : Obligations.ResetSetsEveryElement := by
  intro s rest h
  refine ⟨State.doReset { s with schedule := rest }, step_of_turn h, State.eprAt_doReset _, State.bdtAt_doReset _,
    fun a => rfl, fun a => rfl, rfl, rfl, rfl, rfl, rfl, rfl, rfl, rfl, rfl, rfl, rfl, rfl,
    State.requestPending_of_blank (State.eprAt_doReset _) rfl, rfl, ?_, ?_, rfl, rfl, rfl, rfl, rfl⟩
  · intro who; cases who <;> rfl
  · intro who; cases who <;> rfl

/-- Nothing is unread or in flight, and every register is 0: the channels after RESET or power-on. -/
abbrev State.Blank (s : State) : Prop :=
  (∀ ep, s.eprAt ep = 0) ∧ s.rxUnread = 0 ∧ s.rxOffset = 0 ∧ s.txPending = 0 ∧ s.irqActive = false

theorem State.blank_doReset (s : State) : s.doReset.Blank := ⟨s.eprAt_doReset, rfl, rfl, rfl, rfl⟩

theorem State.blank_powerOn (p : Params) : (State.powerOn p).Blank := ⟨State.eprAt_powerOn p, rfl, rfl, rfl, rfl⟩

/-- A register of 0 is disabled in both directions and has no flag set. -/
theorem zero_fields :
    statRx 0#16 = .disabled ∧ statTx 0#16 = .disabled ∧ ctrRx 0#16 = false ∧ ctrTx 0#16 = false := by decide

theorem State.Blank.channelInv {s : State} (h : s.Blank) : s.ChannelInv := by
  obtain ⟨he, hu, ho, hp, -⟩ := h
  obtain ⟨hr, ht, hcr, hct⟩ := zero_fields
  simp [State.ChannelInv, State.ChannelBounds, State.RxBounds, State.RxPacketFits, State.TxInFlight, State.TxBound,
    State.TxOnePacket, State.FreshEmpty, State.RxHandshake, State.RxOnePacket, he, hu, ho, hp, hr, ht, hcr, hct]

/-- Settles O54: `State.reset` is a power-on state, with registers of 0 and nothing written, unread or in flight. -/
theorem resetStateMeetsTheInvariants : Obligations.ResetStateMeetsTheInvariants := by
  have hblank := State.blank_powerOn Params.standard
  have hepr := State.eprAt_powerOn Params.standard
  exact ⟨⟨Memory.wf_nil, Memory.wf_nil⟩, fun ep => by rw [State.reset, hepr]; decide,
    State.handlerEnded_of_inactive rfl, rfl, hblank.channelInv, hepr, rfl,
    State.requestPending_of_blank hepr rfl, rfl, rfl⟩

/-! ## CONFIGURE -/

theorem configuredOut_fields (ep : EpNum) :
    statRx (0x3000 ||| ep.setWidth 16) = .valid ∧ ctrRx (0x3000 ||| ep.setWidth 16) = false := by
  revert ep; decide

theorem configuredIn_fields (ep : EpNum) :
    statTx (0x0020 ||| ep.setWidth 16) = .nak ∧ ctrRx (0x0020 ||| ep.setWidth 16) = false
      ∧ ctrTx (0x0020 ||| ep.setWidth 16) = false := by
  revert ep; decide

section
variable {s : State} (hl : s.params.Legal)
include hl

theorem State.eprAt_configure_epOut :
    s.configure.eprAt s.params.epOut = 0x3000 ||| s.params.epOut.setWidth 16 := by
  obtain ⟨-, -, -, -, -, ⟨hin, hno, -⟩, -⟩ := hl
  exact (State.eprAt_setEpr_other _ _ hno).trans
    ((State.eprAt_setEpr_other _ _ hin).trans (State.eprAt_setEpr_same _ _ _))

theorem State.eprAt_configure_epIn :
    s.configure.eprAt s.params.epIn = 0x0020 ||| s.params.epIn.setWidth 16 := by
  obtain ⟨-, -, -, -, -, ⟨-, -, hno⟩, -⟩ := hl
  exact (State.eprAt_setEpr_other _ _ hno.symm).trans (State.eprAt_setEpr_same _ _ _)

theorem State.rxCapacity_configure_epOut :
    (s.configure.bdtAt s.params.epOut).rxCapacity = Fin.ofNat 1024 s.params.maxPacket := by
  obtain ⟨-, -, -, -, -, ⟨hin, -, -⟩, -⟩ := hl
  exact congrArg Descriptor.rxCapacity
    ((State.bdtAt_setBdt_other _ _ hin).trans (State.bdtAt_setBdt_same _ _ _))

/-- CONFIGURE with nothing unread or in flight arms the endpoint of an empty buffer (70_reset_and_hazards.md R264). -/
theorem State.channelInv_configure (hu : s.rxUnread = 0) (ho : s.rxOffset = 0) (hp : s.txPending = 0) :
    s.configure.ChannelInv := by
  obtain ⟨-, hcr⟩ := configuredOut_fields s.params.epOut
  obtain ⟨hst, -, hct⟩ := configuredIn_fields s.params.epIn
  have hout : s.configure.eprAt s.configure.params.epOut = _ := State.eprAt_configure_epOut hl
  have hin : s.configure.eprAt s.configure.params.epIn = _ := State.eprAt_configure_epIn hl
  have hcap : (s.configure.bdtAt s.configure.params.epOut).rxCapacity = _ := State.rxCapacity_configure_epOut hl
  have hfit : (Fin.ofNat 1024 s.params.maxPacket).val ≤ s.params.maxPacket := Nat.mod_le _ _
  change s.configure.rxUnread = 0 at hu
  change s.configure.rxOffset = 0 at ho
  change s.configure.txPending = 0 at hp
  have hfresh : s.configure.fresh = false := rfl
  simp only [State.ChannelInv, State.ChannelBounds, State.RxBounds, State.RxPacketFits, State.TxInFlight, State.TxBound,
    State.TxOnePacket, State.FreshEmpty, State.RxHandshake, State.RxOnePacket, hout, hin, hcap, hu, ho, hp, hfresh, hcr,
    hst, hct]
  exact ⟨⟨by simp, ⟨fun _ => hfit, by simp⟩, by simp, by simp, by simp, by simp⟩, by simp, by simp⟩

end

/-- Settles O53: power-on leaves nothing unread or in flight, and CONFIGURE writes the registers and the capacity. -/
theorem configuredStateMeetsTheChannelInvariants : Obligations.ConfiguredStateMeetsTheChannelInvariants := by
  intro p hl
  have hin : (State.powerOn p).configure.eprAt p.epIn = _ := State.eprAt_configure_epIn (s := State.powerOn p) hl
  dsimp only
  rw [hin]
  exact ⟨State.channelInv_configure (s := State.powerOn p) hl rfl rfl rfl, rfl, rfl, rfl, configuredIn_fields p.epIn⟩

end Sys2Proof.Machine

/-! R54 as it stands fails of the line rules (10_state.md R54, 42_tx_channel.md R171; log 24): a raw TX_COMPLETE, which CLEAN
allows, ends a transmission whose packet is still armed. -/

namespace Sys2Proof.Machine

/-- The outcome is a next state that meets `p`. -/
def nextMeets (p : State → Bool) : Host.Outcome State Fault Refusal → Bool
  | .next t => p t
  | .fault _ | .refused _ => false

theorem exists_of_nextMeets {p : State → Bool} {x : Host.Outcome State Fault Refusal} (h : nextMeets p x = true) :
    ∃ t, x = .next t ∧ p t = true := by
  cases x with
  | next t => exact ⟨t, rfl, h⟩
  | fault f => cases h
  | refused r => cases h

/-- The configured state of the standard parameters, where TASK submits one byte and IRQ issues a TX_COMPLETE after the
packet is armed. -/
def armedThenCompleted : State :=
  { (State.powerOn Params.standard).configure with
    program := [.cmd ⟨encode (.txSubmit 1), [0x41]⟩]
    programTail := none
    schedule := [.task [], .irq ⟨encode .txComplete, []⟩ []] }

/-- Each of its two turns is one that CLEAN allows, no fault is raised, and the packet is armed with `tx_pending` 0. -/
theorem armedThenCompleted_steps :
    nextMeets (fun t => t.NextTurnClean ∧ t.resets = 0 ∧
      nextMeets (fun u => u.fault = none ∧ u.irqActive = false ∧ u.resets = t.resets ∧ ¬ u.TxInFlight) (step t) = true)
      (step armedThenCompleted) = true := by decide

/-- Refutes O60: the two turns of `armedThenCompleted` are a run under CLEAN, and R57 fails after them. -/
theorem not_cleanRunsMeetTheChannelInvariants : ¬ Obligations.CleanRunsMeetTheChannelInvariants := by
  intro h
  obtain ⟨t, hst, ht⟩ := exists_of_nextMeets armedThenCompleted_steps
  obtain ⟨hclean, hres, ht⟩ := of_decide_eq_true ht
  obtain ⟨u, hsu, hu⟩ := exists_of_nextMeets ht
  obtain ⟨hfault, hidle, hres', hbroken⟩ := of_decide_eq_true hu
  have hstart : ConfiguredRun Params.standard State.NextTurnClean armedThenCompleted := .powerOn _ _ _
  have hrun := (hstart.step (by decide) hst hres).step hclean hsu hres'
  obtain ⟨-, -, -, hflight, -⟩ := h Params.standard u (by decide) (.betweenTurns hrun hidle) hfault
  exact hbroken hflight

end Sys2Proof.Machine

/-! What the lines of one command write, said once (Line), and that a command is such lines and what falls between them. Its
frame follows, and so does everything that lines of another channel's commands leave alone. -/

namespace Sys2Proof.Machine

/-- A command that can raise a fault (60_exceptions.md R233). -/
abbrev MayFault (p : Params) (i : Instr) : Prop :=
  Instr.runsRxComplete p i = true ∨ (∃ n, i = .rxDrain n) ∨ (∃ n, i = .txSubmit n)
    ∨ (∃ ep n, i = .hostOut ep n) ∨ ∃ ep, i = .hostIn ep

/-- A command that may change the receive side of a register (STAT_RX, CTR_RX). -/
def receives : Instr → Bool
  | .epSetRxStatus _ _ | .rxComplete | .rxDrain _ | .hostOut _ _ | .intDispatch _ .rx => true
  | _ => false

/-- A command that may change the transmit side of a register (STAT_TX, CTR_TX). -/
def transmits : Instr → Bool
  | .epSetTxStatus _ _ | .txSubmit _ | .hostIn _ | .intDispatch _ .tx => true
  | _ => false

/-- The receive side of a register is kept. -/
abbrev KeepsRx (o n : Half) : Prop := statRx n = statRx o ∧ ctrRx n = ctrRx o

/-- The transmit side of a register is kept. -/
abbrev KeepsTx (o n : Half) : Prop := statTx n = statTx o ∧ ctrTx n = ctrTx o

section
variable (o r : Half)

theorem keepsTx_rxStatusWord (st : EpStatus) : KeepsTx o (eprWritten o (rxStatusWord r st)) :=
  ⟨statTx_eprWritten_of_disabled o (statTx_rxStatusWord r st), (flags_eprWritten o (leavesFlags_rxStatusWord r st)).2.1⟩

theorem keepsRx_txStatusWord (st : EpStatus) : KeepsRx o (eprWritten o (txStatusWord r st)) :=
  ⟨statRx_eprWritten_of_disabled o (statRx_txStatusWord r st), (flags_eprWritten o (leavesFlags_txStatusWord r st)).1⟩

theorem keeps_typeWord (ty : EpType) :
    KeepsRx o (eprWritten o (typeWord r ty)) ∧ KeepsTx o (eprWritten o (typeWord r ty)) := by
  obtain ⟨hcr, hct, -, -⟩ := flags_eprWritten o (leavesFlags_typeWord r ty)
  exact ⟨⟨statRx_eprWritten_of_disabled o (statRx_typeWord r ty), hcr⟩,
    statTx_eprWritten_of_disabled o (statTx_typeWord r ty), hct⟩

/-- The acknowledgement of one direction toggles neither status. -/
theorem status_ackWords : statRx (ackRxWord r) = .disabled ∧ statTx (ackRxWord r) = .disabled
    ∧ statRx (ackTxWord r) = .disabled ∧ statTx (ackTxWord r) = .disabled := by
  have code {w : Half} {k : Nat} (h : w.extractLsb' k 2 = 0#2) : EpStatus.ofCode (w.extractLsb' k 2) = .disabled := by
    rw [h]; rfl
  refine ⟨code ?_, code ?_, code ?_, code ?_⟩ <;>
  · ext i hi
    interval_cases i <;> simp [ackRxWord, ackTxWord, RW_FIELDS]

theorem keepsTx_ackRxWord : KeepsTx o (eprWritten o (ackRxWord r)) :=
  ⟨statTx_eprWritten_of_disabled o (status_ackWords r).2.1, by
    simp [ctrTx_eprWritten, show ctrTx (ackRxWord r) = true by simp [ctrTx, ackRxWord]]⟩

theorem keepsRx_ackTxWord : KeepsRx o (eprWritten o (ackTxWord r)) :=
  ⟨statRx_eprWritten_of_disabled o (status_ackWords r).2.2.1, by
    simp [ctrRx_eprWritten, show ctrRx (ackTxWord r) = true by simp [ctrRx, ackTxWord]]⟩

theorem keepsTx_afterOutAccepted (autoNak : Bool) : KeepsTx o (afterOutAccepted autoNak o) := by
  obtain ⟨hct, -, hst, -⟩ := fields_of_low (getLsbD_afterOutAccepted autoNak o)
  exact ⟨hst, hct⟩

theorem keepsRx_afterInSent : KeepsRx o (afterInSent o) := by
  obtain ⟨hcr, -, hst, -⟩ := fields_of_outer (getLsbD_afterInSent o)
  exact ⟨hst, hcr⟩

end

/-- One change that the lines of the command `i` of `who` can make: which element, and for which commands. The handler flag is
not among them: INT_DISPATCH sets it around its lines. -/
inductive Line (who : Agent) (i : Instr) : State → State → Prop where
  | port (s : State) (p : Port) : Line who i s (s.setPort who p)
  | register (s : State) (ep : EpNum) (v : Half) (h : Instr.registerWritten s.params i = some ep)
      (hrx : receives i = false → KeepsRx (s.eprAt ep) v) (htx : transmits i = false → KeepsTx (s.eprAt ep) v) :
      Line who i s (s.setEpr ep v)
  | txCount (s : State) (n : Nat) (h : ∃ k, i = .txSubmit k) : Line who i s (s.setTxCount s.params.epIn n)
  | rxCount (s : State) (ep : EpNum) (n : Nat) (h : ∃ k, i = .hostOut ep k) : Line who i s (s.setRxCount ep n)
  | rxCapacity (s : State) (n : Nat) (h : ∃ k, i = .rxDrain k) : Line who i s (s.setRxCapacity s.params.epOut n)
  | pmaBytes (s : State) (a : Nat) (bs : List Byte)
      (h : ∀ b, a ≤ b → b < a + bs.length → s.storesPma b i = true) :
      Line who i s (s.setPma (s.pma.storeBytes a bs))
  | rxBufBytes (s : State) (a : Nat) (bs : List Byte) (h : Instr.runsRxComplete s.params i = true) :
      Line who i s (s.setRxBuf (s.rxBuf.storeBytes a bs))
  | rxUnread (s : State) (n : Nat) (h : Instr.runsRxComplete s.params i = true ∨ ∃ k, i = .rxDrain k) :
      Line who i s (s.setRxUnread n)
  | rxOffset (s : State) (n : Nat) (h : ∃ k, i = .rxDrain k) : Line who i s (s.setRxOffset n)
  | txPending (s : State) (n : Nat) (h : Instr.runsTxComplete s.params i = true ∨ ∃ k, i = .txSubmit k)
      (hn : n ≤ s.params.txClamp) : Line who i s (s.setTxPending n)
  | lineState (s : State) (v : Half)
      (h : (∃ w, i = .ctrlSetLineState w) ∨ i = .classRequest ∨ ∃ ep, i = .intDispatch ep .setup) :
      Line who i s (setLineState v s)
  | setupPending (s : State) (p : Option SetupPacket) (h : i = .hostSetup ∨ ∃ ep, i = .intDispatch ep .setup) :
      Line who i s (s.setSetupPending p)
  | wireLog (s : State) (r : WireRecord)
      (h : (∃ ep n, i = .hostOut ep n) ∨ (∃ ep, i = .hostIn ep) ∨ ∃ ep, i = .intDispatch ep .setup) :
      Line who i s (s.log r)

/-- Lines of the command `i`, and what falls between them, in any order. -/
abbrev Runs (who : Agent) (i : Instr) (gap : Gap) : State → State → Prop :=
  Relation.ReflTransGen fun s t => Line who i s t ∨ gap s = .on t

/-- However the command stands, lines and gaps led there; it has ended by a fault of its own or by what fell between. -/
def Flow.Along (who : Agent) (i : Instr) (gap : Gap) (s : State) : Flow → Prop
  | .on t => Runs who i gap s t
  | .off t => ∃ u, Runs who i gap s u ∧ ((MayFault u.params i ∧ ∃ f, t = u.raise who f) ∨ gap u = .off t)
  | .stuck _ => True

theorem Line.params {who : Agent} {i : Instr} {s t : State} (h : Line who i s t) : t.params = s.params := by
  cases h with
  | port p => simp
  | _ => rfl

/-- What falls between lines leaves the parameters alone. -/
abbrev Gap.KeepsParams (gap : Gap) : Prop := ∀ s t, gap s = .on t → t.params = s.params

section
variable {who : Agent} {i : Instr} {gap : Gap}

theorem Runs.params (hp : Gap.KeepsParams gap) {s t : State} (h : Runs who i gap s t) : t.params = s.params := by
  induction h with
  | refl => rfl
  | tail _ hlast ih =>
    obtain hline | hgap := hlast
    · exact hline.params.trans ih
    · exact (hp _ _ hgap).trans ih

theorem Flow.Along.after {s t : State} {x : Flow} (h : Runs who i gap s t) (hx : x.Along who i gap t) :
    x.Along who i gap s := by
  cases x with
  | on u => exact h.trans hx
  | off u =>
    obtain ⟨v, hv, hend⟩ := hx
    exact ⟨v, h.trans hv, hend⟩
  | stuck f => trivial

theorem Flow.Along.line {s t : State} {x : Flow} (h : Line who i s t) (hx : x.Along who i gap t) :
    x.Along who i gap s := hx.after (.single (.inl h))

theorem Flow.along_ret (s : State) (r : Result) : (Flow.on (s.ret who r)).Along who i gap s :=
  .single (.inl (.port s _))

theorem Flow.along_gap (s : State) : (gap s).Along who i gap s := by
  cases hx : gap s with
  | on t => exact .single (.inr hx)
  | off t => exact ⟨s, .refl, .inr hx⟩
  | stuck f => trivial

theorem Flow.along_raise {s : State} (h : MayFault s.params i) (f : FaultInfo) :
    (Flow.off (s.raise who f)).Along who i gap s := ⟨s, .refl, .inl ⟨h, f, rfl⟩⟩

theorem Flow.Along.orRaise {α : Type} {s : State} {x : Except FaultInfo α} {k : α → Flow} (h : MayFault s.params i)
    (hk : ∀ a, x = .ok a → (k a).Along who i gap s) : (Flow.orRaise who s x k).Along who i gap s := by
  cases x with
  | ok a => exact hk a rfl
  | error f => exact Flow.along_raise h f

theorem Instr.registerWritten_of_runsRxComplete {p : Params} (h : Instr.runsRxComplete p i = true) :
    Instr.registerWritten p i = some p.epOut := by
  cases i with
  | rxComplete => rfl
  | intDispatch ep src =>
    cases src with
    | rx => simpa [Instr.runsRxComplete, Instr.registerWritten] using h
    | tx | setup => cases h
  | _ => cases h

theorem receives_of_runsRxComplete {p : Params} (h : Instr.runsRxComplete p i = true) : receives i = true := by
  cases i with
  | rxComplete => rfl
  | intDispatch ep src =>
    cases src with
    | rx => rfl
    | tx | setup => cases h
  | _ => cases h

/-! ## The lines of each command -/

section
variable (hp : Gap.KeepsParams gap)
include hp

theorem Flow.Along.andThen {s : State} {x : Flow} {k : State → Flow} (hx : x.Along who i gap s)
    (hk : ∀ t, t.params = s.params → (k t).Along who i gap t) : (x.andThen k).Along who i gap s := by
  cases x with
  | on t => exact (hk t (Runs.params hp hx)).after hx
  | off t => exact hx
  | stuck f => trivial

/-- What falls after a line, and then the next lines. -/
theorem Flow.along_gap_andThen {s : State} {k : State → Flow}
    (hk : ∀ t, t.params = s.params → (k t).Along who i gap t) : ((gap s).andThen k).Along who i gap s :=
  (Flow.along_gap s).andThen hp hk

section
variable {s : State} {ep : EpNum} (h : Instr.registerWritten s.params i = some ep)
include h

/-- Two lines that read a register and write it. -/
theorem readThenWrite_along (w : Half) (hrx : receives i = false → ∀ o, KeepsRx o (eprWritten o w))
    (htx : transmits i = false → ∀ o, KeepsTx o (eprWritten o w)) :
    ((gap s).andThen fun t => .on (t.eprWrite ep w)).Along who i gap s :=
  Flow.along_gap_andThen hp fun t ht =>
    .single (.inl (.register t ep _ (ht ▸ h) (fun hi => hrx hi _) (fun hi => htx hi _)))

theorem epSetRxStatusLines_along (hi : receives i = true) (st : EpStatus) :
    (epSetRxStatusLines ep st gap s).Along who i gap s :=
  readThenWrite_along hp h _ (fun hn => absurd (hi.symm.trans hn) (by decide)) fun _ o => keepsTx_rxStatusWord o _ st

theorem epSetTxStatusLines_along (hi : transmits i = true) (st : EpStatus) :
    (epSetTxStatusLines ep st gap s).Along who i gap s :=
  readThenWrite_along hp h _ (fun _ o => keepsRx_txStatusWord o _ st) fun hn => absurd (hi.symm.trans hn) (by decide)

theorem epSetTypeLines_along (ty : EpType) : (epSetTypeLines ep ty gap s).Along who i gap s :=
  readThenWrite_along hp h _ (fun _ o => (keeps_typeWord o _ ty).1) fun _ o => (keeps_typeWord o _ ty).2

end

theorem rxCompleteLines_along {s : State} (h : Instr.runsRxComplete s.params i = true) :
    (rxCompleteLines who gap s).Along who i gap s := by
  unfold rxCompleteLines
  split
  · exact Flow.along_raise (.inl h) _
  · refine Flow.along_gap_andThen hp fun t ht => ?_
    have hreg := Instr.registerWritten_of_runsRxComplete (ht ▸ h)
    refine (epSetRxStatusLines_along hp hreg (receives_of_runsRxComplete h) _).andThen hp fun u hu => ?_
    refine Flow.along_gap_andThen hp fun v hv => ?_
    have hv : v.params = s.params := hv.trans (hu.trans ht)
    rw [← hv] at h
    split
    · exact Flow.along_raise (.inl h) _
    · refine Flow.Along.orRaise (.inl h) fun bytes _ => Flow.Along.orRaise (.inl h) fun w hw => ?_
      obtain ⟨-, rfl⟩ := State.writeRxBuf_ok hw
      refine Flow.Along.line (.rxBufBytes v _ _ h) (Flow.along_gap_andThen hp fun x hx => ?_)
      exact .single (.inl (.rxUnread x _ (.inl (hx ▸ h))))

theorem rearmLines_along (k : Half) (n : Nat) (s : State) :
    (rearmLines n who gap s).Along who (.rxDrain k) gap s := by
  refine Flow.Along.line (.rxOffset s 0 ⟨k, rfl⟩) (Flow.along_gap_andThen hp fun t _ => ?_)
  refine Flow.Along.line (.rxCapacity t _ ⟨k, rfl⟩) (Flow.along_gap_andThen hp fun u _ => ?_)
  exact (epSetRxStatusLines_along hp (i := .rxDrain k) rfl rfl _).andThen hp fun v _ => Flow.along_ret v _

theorem rxDrainBody_along (maxLen : Half) (data : List Byte) (s : State) :
    (rxDrainBody maxLen who gap data s).Along who (.rxDrain maxLen) gap s := by
  have hfault (t : State) : MayFault t.params (.rxDrain maxLen) := .inr (.inl ⟨maxLen, rfl⟩)
  unfold rxDrainBody
  dsimp only
  split
  · split
    · exact Flow.along_gap_andThen hp fun t _ => rearmLines_along hp maxLen _ t
    · exact Flow.along_ret s _
  · refine Flow.along_gap_andThen hp fun t _ => Flow.Along.orRaise (hfault t) fun bytes _ => ?_
    refine Flow.Along.line (.port t _) (Flow.along_gap_andThen hp fun u _ => ?_)
    refine Flow.Along.line (.rxOffset u _ ⟨maxLen, rfl⟩) (Flow.along_gap_andThen hp fun v _ => ?_)
    refine Flow.Along.line (.rxUnread v (v.rxUnread - min maxLen.toNat s.rxUnread) (.inr ⟨maxLen, rfl⟩)) ?_
    split
    · exact Flow.along_ret _ _
    · exact Flow.along_gap_andThen hp fun t _ => rearmLines_along hp maxLen _ t

theorem txSubmitBody_along (len : Half) (data : List Byte) (s : State) :
    (txSubmitBody len who gap data s).Along who (.txSubmit len) gap s := by
  unfold txSubmitBody
  dsimp only
  split
  · exact Flow.along_ret s _
  · refine Flow.along_gap_andThen hp fun t ht => Flow.Along.orRaise (.inr (.inr (.inl ⟨len, rfl⟩))) fun u hu => ?_
    obtain ⟨-, rfl⟩ := State.writePma_ok hu
    have hstores : ∀ b, (t.bdtAt t.params.epIn).txAddr.toNat ≤ b →
        b < (t.bdtAt t.params.epIn).txAddr.toNat + (data.take (min len.toNat s.params.txClamp)).length →
        t.storesPma b (.txSubmit len) = true := by
      intro b hle hlt
      have := List.length_take_le (min len.toNat s.params.txClamp) data
      simp only [State.storesPma, ht, decide_eq_true_eq] at hle hlt ⊢
      omega
    refine Flow.Along.line (.pmaBytes t _ _ hstores) (Flow.along_gap_andThen hp fun u hu => ?_)
    refine Flow.Along.line (.txCount u _ ⟨len, rfl⟩) (Flow.along_gap_andThen hp fun v hv => ?_)
    have hv : v.params = s.params := hv.trans (hu.trans ht)
    refine Flow.Along.line (.txPending v _ (.inr ⟨len, rfl⟩) (by rw [hv]; omega)) (Flow.along_gap_andThen hp fun w _ => ?_)
    exact (epSetTxStatusLines_along hp (i := .txSubmit len) rfl rfl _).andThen hp fun x _ => Flow.along_ret x _

omit hp in
theorem classRequestLine_runs {s : State} (p : SetupPacket)
    (h : (∃ w, i = .ctrlSetLineState w) ∨ i = .classRequest ∨ ∃ ep, i = .intDispatch ep .setup) :
    Runs who i gap s (classRequestLine p s) := by
  unfold classRequestLine
  split
  · exact .single (.inl (.lineState s _ h))
  · exact .refl

theorem handlerLines_along (ep : EpNum) (src : DispatchSource) (r : Half) (s : State) :
    (handlerLines ep src r who gap s).Along who (.intDispatch ep src) gap s := by
  unfold handlerLines
  cases src with
  | rx =>
    refine Flow.Along.line (.register s ep _ rfl nofun fun _ => keepsTx_ackRxWord _ r) (Flow.along_gap_andThen hp fun t _ => ?_)
    unfold callbackLines
    dsimp only
    split
    · exact rxCompleteLines_along hp (by simpa [Instr.runsRxComplete])
    · exact .refl
  | tx =>
    refine Flow.Along.line (.register s ep _ rfl (fun _ => keepsRx_ackTxWord _ r) nofun) (Flow.along_gap_andThen hp fun t _ => ?_)
    unfold callbackLines
    dsimp only
    split
    · exact .single (.inl (.txPending t 0 (.inl (by simpa [Instr.runsTxComplete])) (Nat.zero_le _)))
    · exact .refl
  | setup =>
    unfold setupLine
    dsimp only
    split
    · trivial
    · exact ((Relation.ReflTransGen.single (.inl (.setupPending s none (.inr ⟨ep, rfl⟩)))).trans
        (classRequestLine_runs _ (.inr (.inr ⟨ep, rfl⟩)))).tail (.inl (.wireLog _ _ (.inr (.inr ⟨ep, rfl⟩))))

/-- The lines of INT_DISPATCH inside the handler. -/
theorem inHandler_along (ep : EpNum) (src : DispatchSource) (r : Half) (s : State) :
    ((gap s).andThen fun t => (handlerLines ep src r who gap t).andThen gap).Along who (.intDispatch ep src) gap s :=
  Flow.along_gap_andThen hp fun t _ => (handlerLines_along hp ep src r t).andThen hp fun u _ => Flow.along_gap u

omit hp in
theorem hostOutBody_along (ep : EpNum) (len : Half) {data : List Byte} (hlen : data.length = len.toNat) (s : State) :
    (hostOutBody ep len who gap data s).Along who (.hostOut ep len) gap s := by
  have hlog : (∃ e n, Instr.hostOut ep len = .hostOut e n) ∨ (∃ e, Instr.hostOut ep len = .hostIn e)
      ∨ ∃ e, Instr.hostOut ep len = .intDispatch e .setup := .inl ⟨ep, len, rfl⟩
  unfold hostOutBody
  split
  · exact Flow.Along.line (.wireLog s _ hlog) (Flow.along_ret _ _)
  · exact Flow.Along.line (.wireLog s _ hlog) (Flow.along_ret _ _)
  · exact Flow.Along.line (.wireLog s _ hlog) (Flow.along_ret _ _)
  · split
    · trivial
    · refine Flow.Along.orRaise (.inr (.inr (.inr (.inl ⟨ep, len, rfl⟩)))) fun u hu => ?_
      obtain ⟨-, rfl⟩ := State.writePma_ok hu
      have hstores : ∀ b, (s.bdtAt ep).rxAddr.toNat ≤ b → b < (s.bdtAt ep).rxAddr.toNat + data.length →
          s.storesPma b (.hostOut ep len) = true := fun b hle hlt => by
        simpa [State.storesPma] using ⟨hle, hlen ▸ hlt⟩
      exact Flow.Along.line (.pmaBytes s _ _ hstores) (Flow.Along.line (.rxCount _ ep _ ⟨len, rfl⟩)
        (Flow.Along.line (.register _ ep _ rfl nofun fun _ => keepsTx_afterOutAccepted _ _)
          (Flow.Along.line (.wireLog _ _ hlog) (Flow.along_ret _ _))))

omit hp in
theorem hostInBody_along (ep : EpNum) (data : List Byte) (s : State) :
    (hostInBody ep who gap data s).Along who (.hostIn ep) gap s := by
  have hlog : (∃ e n, Instr.hostIn ep = .hostOut e n) ∨ (∃ e, Instr.hostIn ep = .hostIn e)
      ∨ ∃ e, Instr.hostIn ep = .intDispatch e .setup := .inr (.inl ⟨ep, rfl⟩)
  unfold hostInBody
  split
  · exact Flow.Along.line (.wireLog s _ hlog) (Flow.along_ret _ _)
  · exact Flow.Along.line (.wireLog s _ hlog) (Flow.along_ret _ _)
  · exact Flow.Along.line (.wireLog s _ hlog) (Flow.along_ret _ _)
  · exact Flow.Along.orRaise (.inr (.inr (.inr (.inr ⟨ep, rfl⟩)))) fun bytes _ =>
      Flow.Along.line (.register s ep _ rfl (fun _ => keepsRx_afterInSent _) nofun)
        (Flow.Along.line (.wireLog _ _ hlog) (Flow.along_ret _ _))

omit hp in
theorem hostSetupBody_along (data : List Byte) (s : State) :
    (hostSetupBody who gap data s).Along who .hostSetup gap s := by
  unfold hostSetupBody
  split
  · trivial
  · exact Flow.Along.line (.setupPending s _ (.inl rfl)) (Flow.along_ret _ _)

/-- Every admitted command but INT_DISPATCH is its lines and what falls between them. -/
theorem bodyOf_along {i : Instr} {data : List Byte} {s : State} (ha : admission s.params who data i = none)
    (hne : ∀ ep src, i ≠ .intDispatch ep src) : (bodyOf i who gap data s).Along who i gap s := by
  obtain ⟨-, -, -, hlen, hmod⟩ := (State.admits_iff (s := { s with issuer := who, inData := data })).mp ha
  cases i with
  | epSetRxStatus ep st =>
    exact (epSetRxStatusLines_along hp (i := .epSetRxStatus ep st) rfl rfl st).andThen hp fun t _ => Flow.along_ret t _
  | epSetTxStatus ep st =>
    exact (epSetTxStatusLines_along hp (i := .epSetTxStatus ep st) rfl rfl st).andThen hp fun t _ => Flow.along_ret t _
  | epSetType ep ty =>
    exact (epSetTypeLines_along hp (i := .epSetType ep ty) rfl ty).andThen hp fun t _ => Flow.along_ret t _
  | rxComplete => exact (rxCompleteLines_along hp rfl).andThen hp fun t _ => Flow.along_ret t _
  | rxAvailable => exact Flow.along_ret s _
  | rxDrain maxLen => exact rxDrainBody_along hp maxLen data s
  | txSubmit len => exact txSubmitBody_along hp len data s
  | txComplete => exact Flow.Along.line (.txPending s 0 (.inl rfl) (Nat.zero_le _)) (Flow.along_ret _ _)
  | txPending => exact Flow.along_ret s _
  | ctrlSetLineState v => exact Flow.Along.line (.lineState s v (.inl ⟨v, rfl⟩)) (Flow.along_ret _ _)
  | dtrAsserted => exact Flow.along_ret s _
  | rtsAsserted => exact Flow.along_ret s _
  | resetStateRead => exact Flow.along_ret s _
  | classRequest => exact (Flow.along_ret _ _).after (classRequestLine_runs _ (.inr (.inl rfl)))
  | enable => cases hmod
  | disable => cases hmod
  | hostOut ep len => exact hostOutBody_along ep len hlen s
  | hostIn ep => exact hostInBody_along ep data s
  | hostSetup => exact hostSetupBody_along data s
  | intDispatch ep src => exact absurd rfl (hne ep src)

end

end

/-- INT_DISPATCH, where a request is pending and no handler runs, is its lines inside the handler and the return from it. -/
theorem intDispatchBody_eq {ep : EpNum} {src : DispatchSource} {who : Agent} {gap : Gap} {s : State}
    (hidle : s.irqActive = false) (hreq : s.requestPending ep src = true) (data : List Byte) :
    intDispatchBody ep src who gap data s =
      ((gap s.enterHandler).andThen fun t => (handlerLines ep src (s.eprAt ep) who gap t).andThen gap).andThen
        fun t => .on (t.leaveHandler.ret who .unit) := by
  rw [intDispatchBody, if_neg (by simp [hidle, hreq])]
  simp only [Flow.andThen_assoc]

theorem intDispatchBody_stuck {ep : EpNum} {src : DispatchSource} {who : Agent} {gap : Gap} {s : State}
    (h : ¬ (s.irqActive = false ∧ s.requestPending ep src = true)) (data : List Byte) :
    intDispatchBody ep src who gap data s = .stuck (.dispatchNotEnabled ep src) := by
  rw [intDispatchBody, if_pos]
  simpa [or_iff_not_imp_left] using h

end Sys2Proof.Machine

/-! The frame of every command when nothing falls between its lines. -/

namespace Sys2Proof.Machine

/-- What the command `i` of `who` leaves unchanged from `s` to `t`. Which bytes of the RX buffer it keeps depends on the packet
that RX_COMPLETE copies, so of those it says only that no other command writes them. -/
structure Framed (who : Agent) (i : Instr) (s t : State) : Prop where
  addresses : ∀ e, (t.bdtAt e).txAddr = (s.bdtAt e).txAddr ∧ (t.bdtAt e).rxAddr = (s.bdtAt e).rxAddr
  registers : ∀ e, Instr.registerWritten s.params i ≠ some e → t.eprAt e = s.eprAt e
  descriptors : ∀ e, Instr.descriptorWritten s.params i ≠ some e → t.bdtAt e = s.bdtAt e
  pma : ∀ a, s.storesPma a i = false → t.pmaByte a = s.pmaByte a
  rxBuf : Instr.runsRxComplete s.params i = false → ∀ a, t.rxBufByte a = s.rxBufByte a
  rxUnread : Instr.runsRxComplete s.params i = false → (∀ n, i ≠ .rxDrain n) → t.rxUnread = s.rxUnread
  rxOffset : (∀ n, i ≠ .rxDrain n) → t.rxOffset = s.rxOffset
  txPending : Instr.runsTxComplete s.params i = false → (∀ n, i ≠ .txSubmit n) → t.txPending = s.txPending
  lines : (∀ v, i ≠ .ctrlSetLineState v) → i ≠ .classRequest → (∀ ep, i ≠ .intDispatch ep .setup) → SameLines s t
  irqActive : (∀ ep src, i ≠ .intDispatch ep src) → t.irqActive = s.irqActive
  setupPending : i ≠ .hostSetup → (∀ ep, i ≠ .intDispatch ep .setup) → t.setupPending = s.setupPending
  wireLog : (∀ ep n, i ≠ .hostOut ep n) → (∀ ep, i ≠ .hostIn ep) → (∀ ep, i ≠ .intDispatch ep .setup) →
    t.wireLog = s.wireLog
  marks : ¬ MayFault s.params i → SameMarks s t
  refusal : t.refused = s.refused ∧ t.refusal = s.refusal
  ports : ∀ a, a ≠ who → t.port a = s.port a
  arguments : SameArguments s t

theorem Framed.refl (who : Agent) (i : Instr) (s : State) : Framed who i s s :=
  ⟨fun _ => ⟨rfl, rfl⟩, fun _ _ => rfl, fun _ _ => rfl, fun _ _ => rfl, fun _ _ => rfl, fun _ _ => rfl, fun _ => rfl,
    fun _ _ => rfl, fun _ _ _ => ⟨rfl, rfl, rfl⟩, fun _ => rfl, fun _ _ => rfl, fun _ _ _ => rfl,
    fun _ => ⟨rfl, rfl, rfl, fun _ => rfl⟩, ⟨rfl, rfl⟩, fun _ _ => rfl, ⟨rfl, rfl, rfl, rfl, rfl, rfl, rfl, rfl, rfl⟩⟩

/-- Where a command stores to packet memory depends on the parameters and the buffer addresses alone. -/
theorem State.storesPma_congr {s t : State} (hp : t.params = s.params)
    (ha : ∀ e, (t.bdtAt e).txAddr = (s.bdtAt e).txAddr ∧ (t.bdtAt e).rxAddr = (s.bdtAt e).rxAddr) (a : Nat) (i : Instr) :
    t.storesPma a i = s.storesPma a i := by
  cases i with
  | txSubmit len => simp [State.storesPma, hp, ha]
  | hostOut ep len => simp [State.storesPma, ha]
  | _ => rfl

theorem Framed.trans {who : Agent} {i : Instr} {s t u : State} (h : Framed who i s t) (h' : Framed who i t u) :
    Framed who i s u := by
  have hp := h.arguments.1
  have hst := State.storesPma_congr hp h.addresses
  constructor
  case addresses => exact fun e => ⟨(h'.addresses e).1.trans (h.addresses e).1, (h'.addresses e).2.trans (h.addresses e).2⟩
  case registers => exact fun e he => (h'.registers e (hp ▸ he)).trans (h.registers e he)
  case descriptors => exact fun e he => (h'.descriptors e (hp ▸ he)).trans (h.descriptors e he)
  case pma => exact fun a ha => (h'.pma a (by rw [hst, ha])).trans (h.pma a ha)
  case rxBuf => exact fun hr a => (h'.rxBuf (hp ▸ hr) a).trans (h.rxBuf hr a)
  case rxUnread => exact fun hr hd => (h'.rxUnread (hp ▸ hr) hd).trans (h.rxUnread hr hd)
  case rxOffset => exact fun hd => (h'.rxOffset hd).trans (h.rxOffset hd)
  case txPending => exact fun hr hd => (h'.txPending (hp ▸ hr) hd).trans (h.txPending hr hd)
  case lines =>
    intro h1 h2 h3
    obtain ⟨hr, hd, hs⟩ := h.lines h1 h2 h3
    obtain ⟨hr', hd', hs'⟩ := h'.lines h1 h2 h3
    exact ⟨hr'.trans hr, hd'.trans hd, hs'.trans hs⟩
  case irqActive => exact fun hi => (h'.irqActive hi).trans (h.irqActive hi)
  case setupPending => exact fun h1 h2 => (h'.setupPending h1 h2).trans (h.setupPending h1 h2)
  case wireLog => exact fun h1 h2 h3 => (h'.wireLog h1 h2 h3).trans (h.wireLog h1 h2 h3)
  case marks =>
    intro hm
    obtain ⟨hf, hr, hi, hs⟩ := h.marks hm
    obtain ⟨hf', hr', hi', hs'⟩ := h'.marks (hp ▸ hm)
    exact ⟨hf'.trans hf, hr'.trans hr, hi'.trans hi, fun w => (hs' w).trans (hs w)⟩
  case refusal => exact ⟨h'.refusal.1.trans h.refusal.1, h'.refusal.2.trans h.refusal.2⟩
  case ports => exact fun a ha => (h'.ports a ha).trans (h.ports a ha)
  case arguments =>
    obtain ⟨h1, h2, h3, h4, h5, h6, h7, h8, h9⟩ := h.arguments
    obtain ⟨k1, k2, k3, k4, k5, k6, k7, k8, k9⟩ := h'.arguments
    exact ⟨k1.trans h1, k2.trans h2, k3.trans h3, k4.trans h4, k5.trans h5, k6.trans h6, k7.trans h7, k8.trans h8,
      k9.trans h9⟩

section
variable {who : Agent} {i : Instr}

theorem Framed.setPort (s : State) (p : Port) : Framed who i s (s.setPort who p) := by
  constructor
  case ports => exact fun a ha => s.port_setPort_other p ha
  all_goals simp [SameLines, SameMarks, SameArguments]

theorem Framed.raise (s : State) (f : FaultInfo) (h : MayFault s.params i) : Framed who i s (s.raise who f) := by
  constructor
  case marks => exact fun hn => absurd h hn
  all_goals simp [SameLines, SameArguments]

theorem Framed.dropGaps (s : State) : Framed who i s s.dropGaps := { Framed.refl who i s with }

theorem Framed.enterHandler (ep : EpNum) (src : DispatchSource) (s : State) :
    Framed who (.intDispatch ep src) s s.enterHandler :=
  { Framed.refl who (.intDispatch ep src) s with irqActive := fun h => absurd rfl (h ep src) }

theorem Framed.leaveHandler (ep : EpNum) (src : DispatchSource) (s : State) :
    Framed who (.intDispatch ep src) s s.leaveHandler :=
  { Framed.refl who (.intDispatch ep src) s with irqActive := fun h => absurd rfl (h ep src) }

/-- A descriptor replaced with the buffers where they were. -/
theorem Framed.setBdt (s : State) (ep : EpNum) (d : Descriptor) (h : Instr.descriptorWritten s.params i = some ep)
    (htx : d.txAddr = (s.bdtAt ep).txAddr) (hrx : d.rxAddr = (s.bdtAt ep).rxAddr) : Framed who i s (s.setBdt ep d) :=
  { Framed.refl who i s with
    addresses := fun e => by
      by_cases he : e = ep
      · subst he; simp [htx, hrx]
      · simp [State.bdtAt_setBdt_other s d he]
    descriptors := fun e he => s.bdtAt_setBdt_other d fun h' => he (h' ▸ h) }

theorem Line.framed {s t : State} (h : Line who i s t) : Framed who i s t := by
  cases h with
  | port p => exact .setPort s p
  | register ep v h hrx htx =>
    exact { Framed.refl who i s with registers := fun e he => s.eprAt_setEpr_other v fun h' => he (h' ▸ h) }
  | txCount n h =>
    obtain ⟨k, rfl⟩ := h
    exact .setBdt s _ _ rfl rfl rfl
  | rxCount ep n h =>
    obtain ⟨k, rfl⟩ := h
    exact .setBdt s _ _ rfl rfl rfl
  | rxCapacity n h =>
    obtain ⟨k, rfl⟩ := h
    exact .setBdt s _ _ rfl rfl rfl
  | pmaBytes a bs h =>
    refine { Framed.refl who i s with pma := fun b hb => ?_ }
    rw [State.pmaByte_storeBytes, dif_neg fun ⟨hle, hlt⟩ => by simp [h b hle hlt] at hb]
  | rxBufBytes a bs h => exact { Framed.refl who i s with rxBuf := fun hn => absurd (h.symm.trans hn) (by decide) }
  | rxUnread n h =>
    refine { Framed.refl who i s with rxUnread := fun hn hd => ?_ }
    obtain h | ⟨k, rfl⟩ := h
    · exact absurd (h.symm.trans hn) (by decide)
    · exact absurd rfl (hd k)
  | rxOffset n h =>
    obtain ⟨k, rfl⟩ := h
    exact { Framed.refl who _ s with rxOffset := fun hd => absurd rfl (hd k) }
  | txPending n h hn =>
    refine { Framed.refl who i s with txPending := fun hn hd => ?_ }
    obtain h | ⟨k, rfl⟩ := h
    · exact absurd (h.symm.trans hn) (by decide)
    · exact absurd rfl (hd k)
  | lineState v h =>
    refine { Framed.refl who i s with lines := fun h1 h2 h3 => ?_ }
    obtain ⟨v, rfl⟩ | rfl | ⟨ep, rfl⟩ := h
    · exact absurd rfl (h1 v)
    · exact absurd rfl h2
    · exact absurd rfl (h3 ep)
  | setupPending p h =>
    refine { Framed.refl who i s with setupPending := fun h1 h2 => ?_ }
    obtain rfl | ⟨ep, rfl⟩ := h
    · exact absurd rfl h1
    · exact absurd rfl (h2 ep)
  | wireLog r h =>
    refine { Framed.refl who i s with wireLog := fun h1 h2 h3 => ?_ }
    obtain ⟨ep, n, rfl⟩ | ⟨ep, rfl⟩ | ⟨ep, rfl⟩ := h
    · exact absurd rfl (h1 ep n)
    · exact absurd rfl (h2 ep)
    · exact absurd rfl (h3 ep)

theorem Line.gaps {s t : State} (h : Line who i s t) : t.taskGaps = s.taskGaps ∧ t.irqGaps = s.irqGaps := by
  cases h with
  | port p => simp
  | _ => exact ⟨rfl, rfl⟩

end

/-! ## Commands with nothing between their lines -/

section
variable {who : Agent} {i : Instr}

theorem Runs.framed_of_undisturbed {a : Agent} {s t : State} (hs : s.Undisturbed) (h : Runs who i (gapOf a) s t) :
    t.Undisturbed ∧ Framed who i s t := by
  induction h with
  | refl => exact ⟨hs, .refl who i s⟩
  | tail _ hlast ih =>
    obtain ⟨hu, hf⟩ := ih
    obtain hline | hgap := hlast
    · exact ⟨⟨hline.gaps.1.trans hu.1, hline.gaps.2.trans hu.2⟩, hf.trans hline.framed⟩
    · rw [gapOf_undisturbed hu] at hgap
      cases hgap
      exact ⟨hu, hf⟩

/-- However lines with nothing between them stand, they have kept the command's frame. -/
theorem Flow.Along.framed {a : Agent} {s t : State} {x : Flow} (hs : s.Undisturbed) (hx : x.Along who i (gapOf a) s)
    (ht : x.Reaches t) : Framed who i s t := by
  obtain rfl | rfl := ht
  · exact (Runs.framed_of_undisturbed hs hx).2
  · obtain ⟨u, hu, hend⟩ := hx
    obtain ⟨hund, hframed⟩ := Runs.framed_of_undisturbed hs hu
    obtain ⟨hm, f, rfl⟩ | hoff := hend
    · exact hframed.trans (.raise u f hm)
    · rw [gapOf_undisturbed hund] at hoff
      cases hoff

end

theorem Elems.params {s t : State} (h : Elems s t) : t.params = s.params := by
  induction h with
  | refl => rfl
  | tail _ hlast ih => exact hlast.sameRun.1.trans ih

theorem Gap.Elementary.keepsParams {gap : Gap} (hg : Gap.Elementary gap) : Gap.KeepsParams gap := by
  intro s t h
  have hw := hg s
  rw [h] at hw
  exact Elems.params hw

theorem gapOf_keepsParams (who : Agent) : Gap.KeepsParams (gapOf who) := (gapOf_elementary who).keepsParams

/-- A flow has come to a state before its continuation, or by it. -/
theorem Flow.Reaches.andThen {x : Flow} {k : State → Flow} {u : State} (h : (x.andThen k).Reaches u) :
    x = .off u ∨ ∃ t, x = .on t ∧ (k t).Reaches u := by
  cases x with
  | on t => exact .inr ⟨t, rfl, h⟩
  | off t =>
    obtain h | h := h <;> cases h
    exact .inl rfl
  | stuck f => obtain h | h := h <;> cases h

theorem Flow.Reaches.on {s u : State} (h : (Flow.on s).Reaches u) : u = s := by
  obtain h | h := h <;> cases h
  rfl

theorem Flow.not_reaches_stuck {f : Fault} {u : State} : ¬ (Flow.stuck f).Reaches u := by
  rintro (h | h) <;> cases h

/-- INT_DISPATCH with nothing between its lines keeps its frame. -/
theorem intDispatchBody_framed {who : Agent} {ep : EpNum} {src : DispatchSource} {data : List Byte} {s t : State}
    (hs : s.Undisturbed) (h : (intDispatchBody ep src who (gapOf who) data s).Reaches t) :
    Framed who (.intDispatch ep src) s t := by
  by_cases hen : s.irqActive = false ∧ s.requestPending ep src = true
  · rw [intDispatchBody_eq hen.1 hen.2] at h
    have hin := inHandler_along (who := who) (gapOf_keepsParams who) ep src (s.eprAt ep) s.enterHandler
    refine (Framed.enterHandler ep src s).trans ?_
    obtain hoff | ⟨u, hon, hret⟩ := h.andThen
    · exact hin.framed (s := s.enterHandler) hs (.inr hoff)
    · rw [hret.on]
      exact ((hin.framed (s := s.enterHandler) hs (.inl hon)).trans (.leaveHandler ep src u)).trans (.setPort _ _)
  · rw [intDispatchBody_stuck hen] at h
    exact absurd h Flow.not_reaches_stuck

/-- Every command admitted with nothing between its lines keeps its frame. -/
theorem exec_framed {i : Instr} {s t : State} (hs : s.Undisturbed) (ha : s.Admits i) (h : exec i s = .next t) :
    Framed s.issuer i s t := by
  rw [exec_of_admits ha] at h
  obtain ⟨u, hu, rfl⟩ := Flow.outcome_next h
  have hs' : (s.clearPort s.issuer).Undisturbed := by simpa [State.Undisturbed] using hs
  suffices hf : Framed s.issuer i (s.clearPort s.issuer) u from ((Framed.setPort s _).trans hf).trans (.dropGaps u)
  by_cases hi : ∃ ep src, i = .intDispatch ep src
  · obtain ⟨ep, src, rfl⟩ := hi
    exact intDispatchBody_framed (data := s.inData) hs' hu
  · exact (bodyOf_along (gapOf_keepsParams _) (by simpa using ha) fun ep src h => hi ⟨ep, src, h⟩).framed hs' hu

/-! ## The RX buffer -/

/-- A line that reads or writes memory faults or goes on. -/
theorem Flow.Reaches.orRaise {α : Type} {who : Agent} {s u : State} {x : Except FaultInfo α} {k : α → Flow}
    (h : (Flow.orRaise who s x k).Reaches u) : (∃ f, u = s.raise who f) ∨ ∃ a, x = .ok a ∧ (k a).Reaches u := by
  cases x with
  | ok a => exact .inr ⟨a, rfl, h⟩
  | error f =>
    obtain h | h := h <;> cases h
    exact .inl ⟨f, rfl⟩

theorem Flow.Reaches.off {s u : State} (h : (Flow.off s).Reaches u) : u = s := by
  obtain h | h := h <;> cases h
  rfl

/-- RX_COMPLETE's lines with nothing between them write at most the first `rx_count` bytes of the RX buffer. -/
theorem rxCompleteLines_rxBuf {who : Agent} {s t : State} (hs : s.Undisturbed)
    (h : (rxCompleteLines who (gapOf who) s).Reaches t) {a : Nat}
    (ha : (s.bdtAt s.params.epOut).rxCount.toNat ≤ a) : t.rxBufByte a = s.rxBufByte a := by
  unfold rxCompleteLines at h
  split at h
  · simp [h.off]
  · rw [gapOf_undisturbed hs, Flow.andThen_on, epSetRxStatusLines_undisturbed (gapOf_undisturbed hs who),
      Flow.andThen_on, gapOf_undisturbed (by exact hs), Flow.andThen_on] at h
    split at h
    · simp [h.off]
    · obtain ⟨f, rfl⟩ | ⟨bytes, hread, h⟩ := h.orRaise
      · simp
      · obtain ⟨f, rfl⟩ | ⟨u, hwrite, h⟩ := h.orRaise
        · simp
        · obtain ⟨-, rfl⟩ := State.writeRxBuf_ok hwrite
          obtain ⟨-, rfl⟩ := State.readPma_ok hread
          rw [gapOf_undisturbed (by exact hs), Flow.andThen_on] at h
          rw [h.on, State.setRxUnread_rxBufByte, State.rxBufByte_storeBytes, dif_neg (by simp; omega)]
          simp

/-- The OUT slot of `EP_OUT` holds RX_COMPLETE (60_exceptions.md R240). -/
theorem callbackLines_rx_epOut {ep : EpNum} {s : State} (h : ep = s.params.epOut) (who : Agent) (gap : Gap) :
    callbackLines ep .rx who gap s = rxCompleteLines who gap s := if_pos h

/-- The same of the lines that follow in the handler. -/
theorem rxCallback_rxBuf {who : Agent} {s t : State} (hs : s.Undisturbed)
    (h : ((rxCompleteLines who (gapOf who) s).andThen fun u => (gapOf who u).andThen
      fun v => .on (v.leaveHandler.ret who .unit)).Reaches t) {a : Nat}
    (ha : (s.bdtAt s.params.epOut).rxCount.toNat ≤ a) : t.rxBufByte a = s.rxBufByte a := by
  obtain hoff | ⟨u, hon, h⟩ := h.andThen
  · exact rxCompleteLines_rxBuf hs (.inr hoff) ha
  · have hlines := rxCompleteLines_along (who := who) (i := .rxComplete) (gapOf_keepsParams who) (s := s) rfl
    rw [hon] at hlines
    rw [gapOf_undisturbed (Runs.framed_of_undisturbed hs hlines).1, Flow.andThen_on] at h
    rw [h.on, State.ret_rxBufByte]
    exact rxCompleteLines_rxBuf hs (.inl hon) ha

theorem intDispatchBody_rxBuf {who : Agent} {s t : State} {data : List Byte} (hs : s.Undisturbed)
    (h : (intDispatchBody s.params.epOut .rx who (gapOf who) data s).Reaches t) {a : Nat}
    (ha : (s.bdtAt s.params.epOut).rxCount.toNat ≤ a) : t.rxBufByte a = s.rxBufByte a := by
  by_cases hen : s.irqActive = false ∧ s.requestPending s.params.epOut .rx = true
  · rw [intDispatchBody_eq hen.1 hen.2, gapOf_undisturbed (by exact hs), Flow.andThen_on, handlerLines,
      gapOf_undisturbed (by exact hs), Flow.andThen_on, Flow.andThen_assoc, callbackLines_rx_epOut (by rfl)] at h
    exact rxCallback_rxBuf (by exact hs) h ha
  · rw [intDispatchBody_stuck hen] at h
    exact absurd h Flow.not_reaches_stuck

/-- Every command admitted with nothing between its lines keeps the RX buffer beyond the packet it copies. -/
theorem exec_rxBuf {i : Instr} {s t : State} (hs : s.Undisturbed) (ha : s.Admits i) (h : exec i s = .next t) {a : Nat}
    (hcopied : Instr.runsRxComplete s.params i = true → (s.bdtAt s.params.epOut).rxCount.toNat ≤ a) :
    t.rxBufByte a = s.rxBufByte a := by
  by_cases hrun : Instr.runsRxComplete s.params i = true
  · rw [exec_of_admits ha] at h
    obtain ⟨u, hu, rfl⟩ := Flow.outcome_next h
    have hs' : (s.clearPort s.issuer).Undisturbed := by simpa [State.Undisturbed] using hs
    have hcount : ((s.clearPort s.issuer).bdtAt (s.clearPort s.issuer).params.epOut).rxCount.toNat ≤ a := by
      simpa using hcopied hrun
    rw [State.dropGaps_rxBufByte, ← State.clearPort_rxBufByte s s.issuer]
    cases i with
    | rxComplete =>
      obtain hoff | ⟨v, hon, hret⟩ := Flow.Reaches.andThen hu
      · exact rxCompleteLines_rxBuf hs' (.inr hoff) hcount
      · rw [hret.on, State.ret_rxBufByte]
        exact rxCompleteLines_rxBuf hs' (.inl hon) hcount
    | intDispatch ep src =>
      cases src with
      | rx =>
        obtain rfl : ep = (s.clearPort s.issuer).params.epOut := by simpa [Instr.runsRxComplete] using hrun
        exact intDispatchBody_rxBuf (data := s.inData) hs' hu hcount
      | tx | setup => cases hrun
    | _ => cases hrun
  · exact (exec_framed hs ha h).rxBuf (by simpa using hrun) a

/-- Settles O20: lines that write no more than the command's own elements keep its frame (`Framed`), and RX_COMPLETE's copy
ends with the packet. -/
theorem everyCommandKeepsItsFrame : Obligations.EveryCommandKeepsItsFrame := by
  intro i s t hs ha h
  have hf := exec_framed hs ha h
  refine ⟨hf.registers, hf.descriptors, hf.pma, fun a => exec_rxBuf hs ha h, hf.rxUnread, hf.rxOffset, hf.txPending,
    hf.lines, hf.irqActive, hf.setupPending, hf.wireLog, fun hrx hdrain hsubmit hout hin => hf.marks ?_,
    hf.refusal.1, hf.refusal.2, hf.ports, hf.arguments⟩
  rintro (h | ⟨n, rfl⟩ | ⟨n, rfl⟩ | ⟨ep, n, rfl⟩ | ⟨ep, rfl⟩)
  · exact absurd (h.symm.trans hrx) (by decide)
  · exact hdrain n rfl
  · exact hsubmit n rfl
  · exact hout ep n rfl
  · exact hin ep rfl

end Sys2Proof.Machine

/-! What a move can do to the receive channel and to the transmit channel, and what it keeps of the channel invariants
(10_state.md R55 to R58). A move is a WIRE step or a whole command of IRQ. -/

namespace Sys2Proof.Machine

/-! ## The two channels as the invariants see them -/

/-- STAT_RX of `EP_OUT`. -/
abbrev State.outStat (s : State) : EpStatus := statRx (s.eprAt s.params.epOut)
/-- CTR_RX of `EP_OUT`: a packet waits for its callback. -/
abbrev State.outFlag (s : State) : Bool := ctrRx (s.eprAt s.params.epOut)
/-- The armed capacity of `EP_OUT`. -/
abbrev State.outRoom (s : State) : Nat := (s.bdtAt s.params.epOut).rxCapacity.val
/-- The length of the packet in the receive buffer of `EP_OUT`. -/
abbrev State.outCount (s : State) : Nat := (s.bdtAt s.params.epOut).rxCount.toNat
/-- STAT_TX of `EP_IN`. -/
abbrev State.inStat (s : State) : EpStatus := statTx (s.eprAt s.params.epIn)
/-- CTR_TX of `EP_IN`: a sent packet waits for its callback. -/
abbrev State.inFlag (s : State) : Bool := ctrTx (s.eprAt s.params.epIn)

/-- The receive channel is as it was. -/
structure SameRx (s t : State) : Prop where
  params : t.params = s.params
  stat : t.outStat = s.outStat
  flag : t.outFlag = s.outFlag
  room : t.outRoom = s.outRoom
  count : t.outCount = s.outCount
  unread : t.rxUnread = s.rxUnread
  offset : t.rxOffset = s.rxOffset

/-- An armed `EP_OUT` has taken one packet or more (44_wire_events.md R211). -/
structure RxArrives (s t : State) : Prop where
  params : t.params = s.params
  armed : s.outStat = .valid
  stat : t.outStat = if s.params.rxAutoNak then .nak else .valid
  flag : t.outFlag = true
  room : t.outRoom = s.outRoom
  count : t.outCount ≤ s.outRoom
  unread : t.rxUnread = s.rxUnread
  offset : t.rxOffset = s.rxOffset

/-- What WIRE steps do to the receive channel. -/
abbrev RxQuiet (s t : State) : Prop := SameRx s t ∨ RxArrives s t

/-- RX_COMPLETE has published a packet in the empty buffer (41_rx_channel.md R150). -/
structure RxPublish (s t : State) : Prop where
  params : t.params = s.params
  room : t.outRoom = s.outRoom
  wasEmpty : s.rxUnread = 0 ∧ s.rxOffset = 0
  offset : t.rxOffset = 0
  unread : t.rxUnread ≤ s.params.rxCap

/-- INT_DISPATCH has acknowledged a waiting packet and published it (60_exceptions.md R240). -/
structure RxDispatch (s t : State) : Prop extends RxPublish s t where
  waiting : s.outFlag = true
  fits : s.RxPacketFits → t.RxPacketFits ∧ t.rxUnread ≤ s.params.maxPacket
  nak : s.outStat ≠ .valid → t.outStat = .nak ∧ t.outFlag = false

/-- What a move can do to the receive channel; `raw` allows a RX_COMPLETE that is no callback. -/
inductive RxMove (raw : Bool) (s t : State) : Prop where
  | quiet (h : RxQuiet s t)
  | published (hraw : raw = true) (h : RxPublish s t)
  | dispatched (h : RxDispatch s t)

/-- The transmit channel is as it was. -/
structure SameTx (s t : State) : Prop where
  params : t.params = s.params
  stat : t.inStat = s.inStat
  flag : t.inFlag = s.inFlag
  pending : t.txPending = s.txPending

/-- The armed packet of `EP_IN` has been sent (44_wire_events.md R214). -/
structure TxSent (s t : State) : Prop where
  params : t.params = s.params
  armed : s.inStat = .valid
  stat : t.inStat = .nak
  flag : t.inFlag = true
  pending : t.txPending = s.txPending

/-- What WIRE steps do to the transmit channel. -/
abbrev TxQuiet (s t : State) : Prop := SameTx s t ∨ TxSent s t

/-- INT_DISPATCH has acknowledged a sent packet and completed it (60_exceptions.md R240). -/
structure TxDispatch (s t : State) : Prop where
  params : t.params = s.params
  waiting : s.inFlag = true
  pending : t.txPending = 0
  idle : s.inStat ≠ .valid → t.inStat = s.inStat ∧ t.inFlag = false

/-- What a move can do to the transmit channel; `raw` allows a TX_COMPLETE that is no callback. -/
inductive TxMove (raw : Bool) (s t : State) : Prop where
  | quiet (h : TxQuiet s t)
  | completed (hraw : raw = true) (params : t.params = s.params) (pending : t.txPending = 0)
  | dispatched (h : TxDispatch s t)

/-- The rest that a move keeps: no RESET, no handler entered or left, TASK's own moves still to fall, no fault taken back. -/
structure Steady (s t : State) : Prop where
  params : t.params = s.params
  resets : t.resets = s.resets
  irqActive : t.irqActive = s.irqActive
  fresh : t.fresh = s.fresh
  taskGaps : t.taskGaps = s.taskGaps
  fault : t.fault = none → s.fault = none

/-! ## Moves in sequence -/

theorem Steady.refl (s : State) : Steady s s := ⟨rfl, rfl, rfl, rfl, rfl, id⟩

theorem Steady.trans {s t u : State} (h : Steady s t) (h' : Steady t u) : Steady s u :=
  ⟨h'.params.trans h.params, h'.resets.trans h.resets, h'.irqActive.trans h.irqActive, h'.fresh.trans h.fresh,
    h'.taskGaps.trans h.taskGaps, h.fault ∘ h'.fault⟩

theorem SameRx.refl (s : State) : SameRx s s := ⟨rfl, rfl, rfl, rfl, rfl, rfl, rfl⟩

theorem SameRx.trans {s t u : State} (h : SameRx s t) (h' : SameRx t u) : SameRx s u :=
  ⟨h'.params.trans h.params, h'.stat.trans h.stat, h'.flag.trans h.flag, h'.room.trans h.room, h'.count.trans h.count,
    h'.unread.trans h.unread, h'.offset.trans h.offset⟩

theorem SameTx.refl (s : State) : SameTx s s := ⟨rfl, rfl, rfl, rfl⟩

theorem SameTx.trans {s t u : State} (h : SameTx s t) (h' : SameTx t u) : SameTx s u :=
  ⟨h'.params.trans h.params, h'.stat.trans h.stat, h'.flag.trans h.flag, h'.pending.trans h.pending⟩

/-- WIRE leaves alone a receive channel that is not armed. -/
theorem RxQuiet.same {s t : State} (h : RxQuiet s t) (hs : s.outStat ≠ .valid) : SameRx s t :=
  h.resolve_right fun h => hs h.armed

/-- WIRE leaves alone a transmit channel that is not armed. -/
theorem TxQuiet.same {s t : State} (h : TxQuiet s t) (hs : s.inStat ≠ .valid) : SameTx s t :=
  h.resolve_right fun h => hs h.armed

theorem RxQuiet.params {s t : State} (h : RxQuiet s t) : t.params = s.params := h.elim (·.params) (·.params)
theorem RxQuiet.room {s t : State} (h : RxQuiet s t) : t.outRoom = s.outRoom := h.elim (·.room) (·.room)
theorem RxQuiet.unread {s t : State} (h : RxQuiet s t) : t.rxUnread = s.rxUnread := h.elim (·.unread) (·.unread)
theorem RxQuiet.offset {s t : State} (h : RxQuiet s t) : t.rxOffset = s.rxOffset := h.elim (·.offset) (·.offset)
theorem TxQuiet.params {s t : State} (h : TxQuiet s t) : t.params = s.params := h.elim (·.params) (·.params)
theorem TxQuiet.pending {s t : State} (h : TxQuiet s t) : t.txPending = s.txPending := h.elim (·.pending) (·.pending)

theorem RxQuiet.trans {s t u : State} (h : RxQuiet s t) (h' : RxQuiet t u) : RxQuiet s u := by
  obtain h | h := h
  · obtain h' | h' := h'
    · exact .inl (h.trans h')
    · exact .inr ⟨h'.params.trans h.params, h.stat ▸ h'.armed, h.params ▸ h'.stat, h'.flag, h'.room.trans h.room,
        h.room ▸ h'.count, h'.unread.trans h.unread, h'.offset.trans h.offset⟩
  · obtain h' | h' := h'
    · exact .inr ⟨h'.params.trans h.params, h.armed, h'.stat.trans h.stat, h'.flag.trans h.flag, h'.room.trans h.room,
        h'.count.trans_le h.count, h'.unread.trans h.unread, h'.offset.trans h.offset⟩
    · exact .inr ⟨h'.params.trans h.params, h.armed, h.params ▸ h'.stat, h'.flag, h'.room.trans h.room,
        h.room ▸ h'.count, h'.unread.trans h.unread, h'.offset.trans h.offset⟩

theorem TxQuiet.trans {s t u : State} (h : TxQuiet s t) (h' : TxQuiet t u) : TxQuiet s u := by
  obtain h | h := h
  · obtain h' | h' := h'
    · exact .inl (h.trans h')
    · exact .inr ⟨h'.params.trans h.params, h.stat ▸ h'.armed, h'.stat, h'.flag, h'.pending.trans h.pending⟩
  · have h' := TxQuiet.same h' (by rw [h.stat]; decide)
    exact .inr ⟨h'.params.trans h.params, h.armed, h'.stat.trans h.stat, h'.flag.trans h.flag,
      h'.pending.trans h.pending⟩

/-! ## What a move keeps of the receive channel -/

/-- The bound that R55 gives the receive counters: MAX_PACKET, or the RX buffer where a raw RX_COMPLETE is allowed. -/
def rxBound (p : Params) (raw : Bool) : Nat := if raw then p.rxCap else p.maxPacket

/-- R55 with what makes it inductive. -/
structure RxGood (raw : Bool) (s : State) : Prop where
  bound : s.rxOffset + s.rxUnread ≤ rxBound s.params raw
  empty : s.rxUnread = 0 → s.rxOffset = 0
  fits : raw = false → s.RxPacketFits

theorem RxQuiet.packetFits {s t : State} (h : RxQuiet s t) (hs : s.RxPacketFits) : t.RxPacketFits := by
  obtain h | h := h
  · exact ⟨fun hv => h.room.trans_le (h.params ▸ hs.1 (h.stat.symm.trans hv)),
      fun hf => h.count.trans_le (h.params ▸ hs.2 (h.flag.symm.trans hf))⟩
  · have hroom : s.outRoom ≤ t.params.maxPacket := h.params ▸ hs.1 h.armed
    exact ⟨fun _ => h.room.trans_le hroom, fun _ => h.count.trans hroom⟩

theorem RxMove.packetFits {s t : State} (h : RxMove false s t) (hs : s.RxPacketFits) : t.RxPacketFits := by
  cases h with
  | quiet h => exact h.packetFits hs
  | published hraw h => cases hraw
  | dispatched h => exact (h.fits hs).1

theorem RxMove.params {raw : Bool} {s t : State} (h : RxMove raw s t) : t.params = s.params := by
  cases h with
  | quiet h => exact h.params
  | published _ h => exact h.params
  | dispatched h => exact h.params

theorem RxMove.room {raw : Bool} {s t : State} (h : RxMove raw s t) : t.outRoom = s.outRoom := by
  cases h with
  | quiet h => exact h.room
  | published _ h => exact h.room
  | dispatched h => exact h.room

/-- While something is unread or the offset is not 0 no move touches the counters: RX_COMPLETE would fault. -/
theorem RxMove.counters {raw : Bool} {s t : State} (h : RxMove raw s t) (hs : s.rxUnread ≠ 0 ∨ s.rxOffset ≠ 0) :
    t.rxUnread = s.rxUnread ∧ t.rxOffset = s.rxOffset := by
  have hne : ¬ (s.rxUnread = 0 ∧ s.rxOffset = 0) := by omega
  cases h with
  | quiet h => exact ⟨h.unread, h.offset⟩
  | published _ h => exact absurd h.wasEmpty hne
  | dispatched h => exact absurd h.wasEmpty hne

theorem RxMove.good {raw : Bool} {s t : State} (h : RxMove raw s t) (hs : RxGood raw s) : RxGood raw t := by
  have hp := h.params
  refine ⟨?_, ?_, fun hraw => by subst hraw; exact h.packetFits (hs.fits rfl)⟩
  · rw [hp]
    cases h with
    | quiet h => rw [h.unread, h.offset]; exact hs.bound
    | published hraw h => simpa [hraw, h.offset, rxBound] using h.unread
    | dispatched h =>
      cases raw with
      | true => simpa [h.offset, rxBound] using h.unread
      | false => simpa [h.offset, rxBound] using (h.fits (hs.fits rfl)).2
  · cases h with
    | quiet h => rw [h.unread, h.offset]; exact hs.empty
    | published _ h => exact fun _ => h.offset
    | dispatched h => exact fun _ => h.offset

/-- R56 with what makes it inductive, where RX_AUTO_NAK is true. -/
abbrev State.RxOrderly (s : State) : Prop := s.RxHandshake ∧ s.RxOnePacket

/-- A receive channel that is neither armed nor has a packet waiting. -/
abbrev State.RxIdle (s : State) : Prop := s.outStat ≠ .valid ∧ s.outFlag = false

/-- No move touches an idle receive channel, but for a raw RX_COMPLETE. -/
theorem RxMove.same {s t : State} (h : RxMove false s t) (hs : s.RxIdle) : SameRx s t := by
  cases h with
  | quiet h => exact h.same hs.1
  | published hraw h => cases hraw
  | dispatched h => exact absurd (h.waiting.symm.trans hs.2) (by decide)

theorem SameRx.orderly {s t : State} (h : SameRx s t) (hs : s.RxOrderly) : t.RxOrderly := by
  obtain ⟨hh, ha, hw⟩ := hs
  refine ⟨fun hu => h.stat.trans (hh (h.unread ▸ hu)), fun hv => ?_, fun hf => h.unread.trans (hw (h.flag.symm.trans hf))⟩
  obtain ⟨hu, hf⟩ := ha (h.stat.symm.trans hv)
  exact ⟨h.unread.trans hu, h.flag.trans hf⟩

theorem RxMove.orderly {s t : State} (h : RxMove false s t) (hnak : s.params.rxAutoNak = true) (hs : s.RxOrderly) :
    t.RxOrderly := by
  obtain ⟨-, ha, hw⟩ := id hs
  have hnak_orderly (hstat : t.outStat = .nak) (hflag : t.outFlag = true → t.rxUnread = 0) : t.RxOrderly :=
    ⟨fun _ => hstat, fun hv => absurd (hstat.symm.trans hv) (by decide), hflag⟩
  cases h with
  | quiet h =>
    obtain h | h := h
    · exact h.orderly hs
    · exact hnak_orderly (h.stat.trans (by rw [hnak]; rfl)) fun _ => h.unread.trans (ha h.armed).1
  | published hraw h => cases hraw
  | dispatched h =>
    have hstat : s.outStat ≠ .valid := fun hv => absurd (h.waiting.symm.trans (ha hv).2) (by decide)
    exact hnak_orderly (h.nak hstat).1 fun hf => absurd (hf.symm.trans (h.nak hstat).2) (by decide)

theorem RxQuiet.handshake {s t : State} (h : RxQuiet s t) (hs : s.RxHandshake) : t.RxHandshake := by
  intro hu
  have hnak := hs (h.unread ▸ hu)
  exact (h.same (by rw [State.outStat, hnak]; decide)).stat.trans hnak

/-! ## What a move keeps of the transmit channel -/

theorem TxMove.params {raw : Bool} {s t : State} (h : TxMove raw s t) : t.params = s.params := by
  cases h with
  | quiet h => exact h.params
  | completed _ h _ => exact h
  | dispatched h => exact h.params

theorem TxMove.bound {raw : Bool} {s t : State} (h : TxMove raw s t) (hs : s.TxBound) : t.TxBound := by
  have hp := h.params
  rw [State.TxBound, hp]
  cases h with
  | quiet h => rw [h.pending]; exact hs
  | completed _ _ h => omega
  | dispatched h => rw [h.pending]; omega

/-- R57 with what makes it inductive. -/
abbrev State.TxOrderly (s : State) : Prop := s.TxInFlight ∧ s.TxOnePacket

/-- A transmit channel with no packet to send and no completion pending. -/
abbrev State.TxIdle (s : State) : Prop := s.inStat ≠ .valid ∧ s.inFlag = false

/-- No move touches an idle transmit channel, but for a raw TX_COMPLETE. -/
theorem TxMove.same {s t : State} (h : TxMove false s t) (hs : s.TxIdle) : SameTx s t := by
  cases h with
  | quiet h => exact h.same hs.1
  | completed hraw _ _ => cases hraw
  | dispatched h => exact absurd (h.waiting.symm.trans hs.2) (by decide)

theorem TxQuiet.inFlight {s t : State} (h : TxQuiet s t) (hs : s.TxInFlight) : t.TxInFlight := by
  obtain h | h := h
  · rw [State.TxInFlight, h.pending]
    change _ ↔ t.inStat = .valid ∨ t.inFlag = true
    rwa [h.stat, h.flag]
  · simp only [State.TxInFlight, h.pending]
    exact ⟨fun _ => .inr h.flag, fun _ => hs.mpr (.inl h.armed)⟩

theorem TxMove.orderly {s t : State} (h : TxMove false s t) (hs : s.TxOrderly) : t.TxOrderly := by
  obtain ⟨hfl, hone⟩ := id hs
  cases h with
  | quiet h =>
    refine ⟨h.inFlight hfl, ?_⟩
    obtain h | h := h
    · exact fun ⟨hv, hf⟩ => hone ⟨h.stat.symm.trans hv, h.flag.symm.trans hf⟩
    · exact fun ⟨hv, _⟩ => absurd (h.stat.symm.trans hv) (by decide)
  | completed hraw _ _ => cases hraw
  | dispatched h =>
    have hstat : s.inStat ≠ .valid := fun hv => hone ⟨hv, h.waiting⟩
    obtain ⟨hstat', hflag⟩ := h.idle hstat
    have hidle : ¬ (t.inStat = .valid ∨ t.inFlag = true) := by
      rw [hstat', hflag]
      simpa using hstat
    exact ⟨by rw [State.TxInFlight, h.pending]; exact ⟨fun h => absurd h (by omega), fun h => absurd h hidle⟩,
      fun ⟨hv, _⟩ => hidle (.inl hv)⟩

end Sys2Proof.Machine

/-! The lines of a command and the two channels: lines of other commands leave a channel alone; and what WIRE steps, listed
between the lines of a command, do to the channels (44_wire_events.md R211, R214). -/

namespace Sys2Proof.Machine

/-! ## Changes of nothing that the channels see -/

/-- The channels, and what a move keeps beside them, are untouched. -/
structure Untouched (s t : State) : Prop extends Steady s t where
  epr : t.epr = s.epr
  bdt : t.bdt = s.bdt
  unread : t.rxUnread = s.rxUnread
  offset : t.rxOffset = s.rxOffset
  pending : t.txPending = s.txPending

theorem Untouched.sameRx {s t : State} (h : Untouched s t) : SameRx s t := by
  have hepr (e : EpNum) : t.eprAt e = s.eprAt e := by rw [State.eprAt, h.epr]; rfl
  have hbdt (e : EpNum) : t.bdtAt e = s.bdtAt e := by rw [State.bdtAt, h.bdt]; rfl
  refine ⟨h.params, ?_, ?_, ?_, ?_, h.unread, h.offset⟩
  · rw [State.outStat, h.params, hepr]
  · rw [State.outFlag, h.params, hepr]
  · rw [State.outRoom, h.params, hbdt]
  · rw [State.outCount, h.params, hbdt]

theorem Untouched.sameTx {s t : State} (h : Untouched s t) : SameTx s t := by
  have hepr (e : EpNum) : t.eprAt e = s.eprAt e := by rw [State.eprAt, h.epr]; rfl
  refine ⟨h.params, ?_, ?_, h.pending⟩
  · rw [State.inStat, h.params, hepr]
  · rw [State.inFlag, h.params, hepr]

theorem Untouched.trans {s t u : State} (h : Untouched s t) (h' : Untouched t u) : Untouched s u :=
  { h.toSteady.trans h'.toSteady with
    epr := h'.epr.trans h.epr, bdt := h'.bdt.trans h.bdt, unread := h'.unread.trans h.unread,
    offset := h'.offset.trans h.offset, pending := h'.pending.trans h.pending }

theorem Untouched.refl (s : State) : Untouched s s := ⟨.refl s, rfl, rfl, rfl, rfl, rfl⟩

theorem Untouched.setPort (s : State) (who : Agent) (p : Port) : Untouched s (s.setPort who p) :=
  ⟨⟨by simp, by simp, by simp, by simp, by simp, by simp⟩, by simp, by simp, by simp, by simp, by simp⟩

theorem State.fault_raise_ne_none (s : State) (who : Agent) (f : FaultInfo) : (s.raise who f).fault ≠ none := by
  rw [State.raise_fault]
  cases s.fault <;> simp

theorem Untouched.raise (s : State) (who : Agent) (f : FaultInfo) : Untouched s (s.raise who f) :=
  ⟨⟨by simp, by simp, by simp, by simp, by simp, fun h => absurd h (s.fault_raise_ne_none who f)⟩,
    by simp, by simp, by simp, by simp, by simp⟩

theorem Untouched.refuse (s : State) (who : Agent) (r : RefusalInfo) : Untouched s (s.refuse who r) :=
  ⟨⟨by simp, by simp, by simp, by simp, by simp, by simp⟩, by simp, by simp, by simp, by simp, by simp⟩

theorem Untouched.log (s : State) (r : WireRecord) : Untouched s (s.log r) := { Untouched.refl s with }

theorem Untouched.setIrqGaps (s : State) (ig : List (List Quiet)) : Untouched s (s.setGaps s.taskGaps ig) :=
  { Untouched.refl s with }

theorem Untouched.ret (s : State) (who : Agent) (r : Result) : Untouched s (s.ret who r) := .setPort s who _

/-! ## Lines and the channels -/

/-- A command whose lines may change the receive channel. -/
abbrev RxSide (p : Params) (i : Instr) : Prop := receives i = true ∧ Instr.registerWritten p i = some p.epOut

/-- A command whose lines may change the transmit channel. -/
abbrev TxSide (p : Params) (i : Instr) : Prop :=
  i = .txComplete ∨ transmits i = true ∧ Instr.registerWritten p i = some p.epIn

theorem txSide_of_runsTxComplete {p : Params} {i : Instr} (h : Instr.runsTxComplete p i = true) : TxSide p i := by
  cases i with
  | txComplete => exact .inl rfl
  | intDispatch ep src =>
    cases src with
    | tx => exact .inr ⟨rfl, by simpa [Instr.runsTxComplete, Instr.registerWritten] using h⟩
    | rx | setup => cases h
  | _ => cases h

theorem SameRx.setEpr (s : State) (ep : EpNum) (v : Half) (h : ep = s.params.epOut → KeepsRx (s.eprAt ep) v) :
    SameRx s (s.setEpr ep v) := by
  by_cases he : ep = s.params.epOut
  · obtain ⟨hs, hc⟩ := h he
    subst he
    exact ⟨rfl, by simpa [State.outStat] using hs, by simpa [State.outFlag] using hc, rfl, rfl, rfl, rfl⟩
  · have hout : (s.setEpr ep v).eprAt s.params.epOut = s.eprAt s.params.epOut := s.eprAt_setEpr_other v (Ne.symm he)
    exact ⟨rfl, congrArg statRx hout, congrArg ctrRx hout, rfl, rfl, rfl, rfl⟩

theorem SameTx.setEpr (s : State) (ep : EpNum) (v : Half) (h : ep = s.params.epIn → KeepsTx (s.eprAt ep) v) :
    SameTx s (s.setEpr ep v) := by
  by_cases he : ep = s.params.epIn
  · obtain ⟨hs, hc⟩ := h he
    subst he
    exact ⟨rfl, by simpa [State.inStat] using hs, by simpa [State.inFlag] using hc, rfl⟩
  · have hin : (s.setEpr ep v).eprAt s.params.epIn = s.eprAt s.params.epIn := s.eprAt_setEpr_other v (Ne.symm he)
    exact ⟨rfl, congrArg statTx hin, congrArg ctrTx hin, rfl⟩

/-- A descriptor replaced with the receive half as it was, or not that of `EP_OUT`. -/
theorem SameRx.setBdt (s : State) (ep : EpNum) (d : Descriptor) (h : ep = s.params.epOut →
    d.rxCapacity = (s.bdtAt ep).rxCapacity ∧ d.rxCount = (s.bdtAt ep).rxCount) : SameRx s (s.setBdt ep d) := by
  by_cases he : ep = s.params.epOut
  · obtain ⟨hr, hc⟩ := h he
    subst he
    exact ⟨rfl, rfl, rfl, by simp [State.outRoom, hr], by simp [State.outCount, hc], rfl, rfl⟩
  · have hout : (s.setBdt ep d).bdtAt s.params.epOut = s.bdtAt s.params.epOut := s.bdtAt_setBdt_other d (Ne.symm he)
    exact ⟨rfl, rfl, rfl, congrArg (·.rxCapacity.val) hout, congrArg (·.rxCount.toNat) hout, rfl, rfl⟩

section
variable {who : Agent} {i : Instr} {s t : State} (h : Line who i s t)
include h

theorem Line.steady : Steady s t := by
  cases h with
  | port p => exact (Untouched.setPort s who p).toSteady
  | _ => exact ⟨rfl, rfl, rfl, rfl, rfl, id⟩

theorem Line.sameRx (hi : ¬ RxSide s.params i) : SameRx s t := by
  have hdrain {k : Half} : i ≠ .rxDrain k := fun hk => hi (hk ▸ ⟨rfl, rfl⟩)
  have hcomplete : Instr.runsRxComplete s.params i ≠ true := fun hr =>
    hi ⟨receives_of_runsRxComplete hr, Instr.registerWritten_of_runsRxComplete hr⟩
  cases h with
  | port p => exact (Untouched.setPort s who p).sameRx
  | register ep v h hrx htx =>
    exact .setEpr s ep v fun he => hrx (by simpa using fun hr => hi ⟨hr, he ▸ h⟩)
  | txCount n h => exact .setBdt s _ _ fun _ => ⟨rfl, rfl⟩
  | rxCount ep n h =>
    obtain ⟨k, rfl⟩ := h
    exact .setBdt s ep _ fun he => absurd ⟨rfl, congrArg some he⟩ hi
  | rxCapacity n h =>
    obtain ⟨k, hk⟩ := h
    exact absurd hk hdrain
  | rxUnread n h =>
    obtain h | ⟨k, hk⟩ := h
    · exact absurd h hcomplete
    · exact absurd hk hdrain
  | rxOffset n h =>
    obtain ⟨k, hk⟩ := h
    exact absurd hk hdrain
  | _ => exact ⟨rfl, rfl, rfl, rfl, rfl, rfl, rfl⟩

theorem Line.sameTx (hi : ¬ TxSide s.params i) : SameTx s t := by
  cases h with
  | port p => exact (Untouched.setPort s who p).sameTx
  | register ep v h hrx htx =>
    exact .setEpr s ep v fun he => htx (by simpa using fun hr => hi (.inr ⟨hr, he ▸ h⟩))
  | txPending n h hn =>
    obtain h | ⟨k, rfl⟩ := h
    · exact absurd (txSide_of_runsTxComplete h) hi
    · exact absurd (.inr ⟨rfl, rfl⟩) hi
  | _ => exact ⟨rfl, rfl, rfl, rfl⟩

end

/-- A relation that the lines and what falls between them keep is kept by the command. -/
theorem Runs.keeps {who : Agent} {i : Instr} {gap : Gap} {R : State → State → Prop} (hrefl : ∀ u, R u u)
    (htrans : ∀ {u v w}, R u v → R v w → R u w) {s t : State} (hp : Gap.KeepsParams gap)
    (hline : ∀ u v, u.params = s.params → Line who i u v → R u v) (hgap : ∀ u v, gap u = .on v → R u v)
    (h : Runs who i gap s t) : R s t := by
  induction h with
  | refl => exact hrefl s
  | tail hruns hlast ih =>
    obtain hl | hg := hlast
    · exact htrans ih (hline _ _ (Runs.params hp hruns) hl)
    · exact htrans ih (hgap _ _ hg)

/-! ## WIRE steps -/

/-- What WIRE steps do. -/
structure WireMove (s t : State) : Prop where
  steady : Steady s t
  rx : RxQuiet s t
  tx : TxQuiet s t

theorem WireMove.trans {s t u : State} (h : WireMove s t) (h' : WireMove t u) : WireMove s u :=
  ⟨h.steady.trans h'.steady, h.rx.trans h'.rx, h.tx.trans h'.tx⟩

theorem Untouched.wireMove {s t : State} (h : Untouched s t) : WireMove s t :=
  ⟨h.toSteady, .inl h.sameRx, .inl h.sameTx⟩

theorem gapNone_keepsParams : Gap.KeepsParams Flow.on := fun _ _ h => by cases h; rfl

/-- What lines with nothing between them, and then perhaps a fault, keep of what each line keeps. -/
theorem Flow.Along.keeps_of_gapNone {who : Agent} {i : Instr} {R : State → State → Prop} (hrefl : ∀ u, R u u)
    (htrans : ∀ {u v w}, R u v → R v w → R u w) {s t : State} {x : Flow}
    (hline : ∀ u v, u.params = s.params → Line who i u v → R u v) (hraise : ∀ u f, R u (u.raise who f))
    (hx : x.Along who i Flow.on s) (ht : x.Reaches t) : R s t := by
  have hruns {u : State} : Runs who i Flow.on s u → R s u :=
    Runs.keeps hrefl htrans gapNone_keepsParams hline fun u v h => by cases h; exact hrefl u
  obtain rfl | rfl := ht
  · exact hruns hx
  · obtain ⟨u, hu, ⟨-, f, rfl⟩ | hoff⟩ := hx
    · exact htrans (hruns hu) (hraise u f)
    · cases hoff

section
variable {who : Agent} {gap : Gap} {data : List Byte} {s t : State}

theorem hostOutBody_rxQuiet {ep : EpNum} {len : Half} (hep : ep = s.params.epOut)
    (h : (hostOutBody ep len who gap data s).Reaches t) : RxQuiet s t := by
  have hlog (r : WireRecord) : RxQuiet s ((s.log r).ret who .unit) :=
    .inl ((Untouched.log s r).trans (.ret _ who _)).sameRx
  unfold hostOutBody at h
  split at h
  · rw [h.on]; exact hlog _
  · rw [h.on]; exact hlog _
  · rw [h.on]; exact hlog _
  · rename_i hv
    split at h
    · exact absurd h Flow.not_reaches_stuck
    · rename_i hroom
      obtain ⟨f, rfl⟩ | ⟨u, hw, h⟩ := h.orRaise
      · exact .inl (Untouched.raise s who f).sameRx
      · obtain ⟨-, rfl⟩ := State.writePma_ok hw
        subst hep
        rw [h.on]
        refine .inr ⟨by simp, hv, ?_, ?_, ?_, ?_, by simp, by simp⟩
        · simp [State.outStat, statRx_afterOutAccepted, hv]
        · simp [State.outFlag, ctrRx_afterOutAccepted]
        · simp [State.outRoom, State.setRxCount]
        · have : len.toNat % 1024 ≤ len.toNat := Nat.mod_le _ _
          simpa [State.outCount, State.setRxCount] using this.trans (Nat.not_lt.mp hroom)

theorem hostInBody_txQuiet {ep : EpNum} (hep : ep = s.params.epIn)
    (h : (hostInBody ep who gap data s).Reaches t) : TxQuiet s t := by
  have hlog (r : WireRecord) : TxQuiet s ((s.log r).ret who .unit) :=
    .inl ((Untouched.log s r).trans (.ret _ who _)).sameTx
  unfold hostInBody at h
  split at h
  · rw [h.on]; exact hlog _
  · rw [h.on]; exact hlog _
  · rw [h.on]; exact hlog _
  · rename_i hv
    obtain ⟨f, rfl⟩ | ⟨bytes, -, h⟩ := h.orRaise
    · exact .inl (Untouched.raise s who f).sameTx
    · subst hep
      rw [h.on]
      refine .inr ⟨by simp, hv, ?_, ?_, by simp⟩
      · simp [State.inStat, statTx_afterInSent]
      · simp [State.inFlag, ctrTx_afterInSent]

/-- Every WIRE step, faulting or not, is quiet in both channels. -/
theorem wireBody_wireMove {i : Instr} (ha : admission s.params .wire data i = none)
    (h : (bodyOf i .wire Flow.on data s).Reaches t) : WireMove s t := by
  obtain ⟨-, -, hwire, -, -⟩ := (State.admits_iff (s := { s with issuer := .wire, inData := data })).mp ha
  have hdispatch : ∀ ep src, i ≠ .intDispatch ep src := by rintro ep src rfl; cases hwire
  have halong := bodyOf_along gapNone_keepsParams ha hdispatch
  have hsteady : Steady s t := halong.keeps_of_gapNone Steady.refl Steady.trans (fun _ _ _ hl => hl.steady)
    (fun u f => (Untouched.raise u .wire f).toSteady) h
  have hrx (hi : ¬ RxSide s.params i) : RxQuiet s t := .inl (halong.keeps_of_gapNone SameRx.refl SameRx.trans
    (fun _ _ hp hl => hl.sameRx (hp ▸ hi)) (fun u f => (Untouched.raise u .wire f).sameRx) h)
  have htx (hi : ¬ TxSide s.params i) : TxQuiet s t := .inl (halong.keeps_of_gapNone SameTx.refl SameTx.trans
    (fun _ _ hp hl => hl.sameTx (hp ▸ hi)) (fun u f => (Untouched.raise u .wire f).sameTx) h)
  cases i with
  | hostOut ep len =>
    refine ⟨hsteady, ?_, htx (by simp [TxSide, transmits])⟩
    by_cases hep : ep = s.params.epOut
    · exact hostOutBody_rxQuiet (gap := Flow.on) hep h
    · exact hrx (by simpa [RxSide, Instr.registerWritten] using fun _ => hep)
  | hostIn ep =>
    refine ⟨hsteady, hrx (by simp [RxSide, receives]), ?_⟩
    by_cases hep : ep = s.params.epIn
    · exact hostInBody_txQuiet (gap := Flow.on) (data := data) hep h
    · exact htx (by simpa [TxSide, Instr.registerWritten] using fun _ => hep)
  | hostSetup => exact ⟨hsteady, hrx (by simp [RxSide, receives]), htx (by simp [TxSide, transmits])⟩
  | _ => cases hwire

end

/-- A command that an agent may run at all is refused, or its body has been run. -/
theorem runCommand_reaches {who : Agent} {gap : Gap} {c : Command} {s t : State}
    (h : (runCommand who gap c s).Reaches t) : s.mayStep who = none ∧
      ((∃ r, runCommand who gap c s = .off (s.refuse who r) ∧ t = s.refuse who r) ∨
      ∃ i, decode c.word = .ok i ∧ admission s.params who c.data i = none ∧
        runCommand who gap c s = bodyOf i who gap c.data (s.clearPort who)) := by
  unfold runCommand at h ⊢
  cases hm : s.mayStep who with
  | some f => rw [hm] at h; exact absurd h Flow.not_reaches_stuck
  | none =>
    rw [hm] at h
    refine ⟨rfl, ?_⟩
    cases hd : decode c.word with
    | error e => rw [hd] at h; exact .inl ⟨_, rfl, h.off⟩
    | ok i =>
      rw [hd] at h
      change (runInstr who gap c.data i s).Reaches t at h
      cases ha : admission s.params who c.data i with
      | some r =>
        have hr : runInstr who gap c.data i s = .off (s.refuse who r) := by rw [runInstr, ha]
        rw [hr] at h
        exact .inl ⟨r, hr, h.off⟩
      | none => exact .inr ⟨i, rfl, ha, by dsimp only; rw [runInstr, ha]⟩

/-- A whole WIRE step. -/
theorem runCommand_wireMove {c : Command} {s t : State} (h : (runCommand .wire Flow.on c s).Reaches t) :
    WireMove s t := by
  obtain ⟨-, ⟨r, -, rfl⟩ | ⟨i, -, ha, hrun⟩⟩ := runCommand_reaches h
  · exact (Untouched.refuse s .wire r).wireMove
  · rw [hrun] at h
    exact (Untouched.setPort s .wire _).wireMove.trans (wireBody_wireMove (s := s.clearPort .wire) (by simpa using ha) h)

/-! ## What falls between the lines of IRQ -/

/-- RESET has come since `s`: the channels are blank. -/
structure Wiped (s t : State) : Prop where
  resets : s.resets < t.resets
  blank : t.Blank

theorem Wiped.after {s t u : State} (h : s.resets = t.resets) (hw : Wiped t u) : Wiped s u := ⟨h ▸ hw.resets, hw.blank⟩

/-- A flow goes on after quiet moves, or is cut off by a RESET. -/
def Flow.QuietFrom (s : State) : Flow → Prop
  | .on t => WireMove s t
  | .off t => Wiped s t
  | .stuck _ => True

theorem Flow.QuietFrom.after {s t : State} {x : Flow} (h : WireMove s t) (hx : x.QuietFrom t) : x.QuietFrom s := by
  cases x with
  | on u => exact h.trans hx
  | off u => exact Wiped.after h.steady.resets.symm hx
  | stuck f => trivial

theorem quietMove_quietFrom (q : Quiet) (s : State) : (quietMove q s).QuietFrom s := by
  cases q with
  | reset => exact ⟨Nat.lt_succ_self s.resets, s.blank_doReset⟩
  | wire c =>
    change (runCommand .wire Flow.on c s).rejoin.QuietFrom s
    cases hx : runCommand .wire Flow.on c s with
    | on t => exact runCommand_wireMove (.inl hx)
    | off t => exact runCommand_wireMove (.inr hx)
    | stuck f => trivial

theorem quietMoves_quietFrom (qs : List Quiet) (s : State) : (quietMoves qs s).QuietFrom s := by
  induction qs generalizing s with
  | nil => exact (Untouched.refl s).wireMove
  | cons q qs ih =>
    have hq := quietMove_quietFrom q s
    rw [quietMoves]
    cases hx : quietMove q s with
    | on t => rw [hx] at hq; exact (ih t).after hq
    | off t => rw [hx] at hq; exact hq
    | stuck f => trivial

theorem irqGap_quietFrom (s : State) : (irqGap s).QuietFrom s := by
  unfold irqGap
  split
  · exact (Untouched.refl s).wireMove
  · exact (quietMoves_quietFrom _ _).after (Untouched.setIrqGaps s _).wireMove

end Sys2Proof.Machine

/-! What a whole command of IRQ does to the two channels (41_rx_channel.md R150, 42_tx_channel.md R171, 60_exceptions.md R240),
and what falls between the lines of TASK. -/

namespace Sys2Proof.Machine

/-! ## Bodies and the relations that their lines keep -/

theorem Flow.andThen_eq_on {x : Flow} {k : State → Flow} {u : State} (h : x.andThen k = .on u) :
    ∃ t, x = .on t ∧ k t = .on u := by
  cases x with
  | on t => exact ⟨t, rfl, h⟩
  | off t => cases h
  | stuck f => cases h

theorem Flow.andThen_eq_off {x : Flow} {k : State → Flow} {u : State} (h : x.andThen k = .off u) :
    x = .off u ∨ ∃ t, x = .on t ∧ k t = .off u := by
  cases x with
  | on t => exact .inr ⟨t, rfl, h⟩
  | off t => exact .inl h
  | stuck f => cases h

theorem Flow.orRaise_eq_on {α : Type} {who : Agent} {s u : State} {x : Except FaultInfo α} {k : α → Flow}
    (h : Flow.orRaise who s x k = .on u) : ∃ a, x = .ok a ∧ k a = .on u := by
  cases x with
  | ok a => exact ⟨a, rfl, h⟩
  | error f => cases h

section
variable {who : Agent} {gap : Gap} {i : Instr} {ep : EpNum} {src : DispatchSource} {data : List Byte} {s t : State}

/-- INT_DISPATCH that has run all its lines: those of its source inside the handler, and the return. -/
theorem intDispatchBody_on (h : intDispatchBody ep src who gap data s = .on t) :
    s.irqActive = false ∧ s.requestPending ep src = true ∧ ∃ u v w, gap s.enterHandler = .on u ∧
      handlerLines ep src (s.eprAt ep) who gap u = .on v ∧ gap v = .on w ∧ t = w.leaveHandler.ret who .unit := by
  by_cases hen : s.irqActive = false ∧ s.requestPending ep src = true
  · rw [intDispatchBody_eq hen.1 hen.2] at h
    obtain ⟨w, h, ht⟩ := Flow.andThen_eq_on h
    obtain ⟨u, hu, h⟩ := Flow.andThen_eq_on h
    obtain ⟨v, hv, hw⟩ := Flow.andThen_eq_on h
    cases ht
    exact ⟨hen.1, hen.2, u, v, w, hu, hv, hw, rfl⟩
  · rw [intDispatchBody_stuck hen] at h
    cases h

/-- A relation that the lines of an admitted command keep, and what falls between them, is kept by the command. -/
theorem bodyOf_keeps {R : State → State → Prop} (hrefl : ∀ u, R u u) (htrans : ∀ {u v w}, R u v → R v w → R u w)
    (hp : Gap.KeepsParams gap) (hline : ∀ u v, u.params = s.params → Line who i u v → R u v)
    (hgap : ∀ u v, gap u = .on v → R u v) (henter : ∀ u, R u u.enterHandler) (hleave : ∀ u, R u u.leaveHandler)
    (ha : admission s.params who data i = none) (h : bodyOf i who gap data s = .on t) : R s t := by
  by_cases hi : ∃ ep src, i = .intDispatch ep src
  · obtain ⟨ep, src, rfl⟩ := hi
    obtain ⟨-, -, u, v, w, hu, hv, hw, rfl⟩ := intDispatchBody_on (data := data) h
    have halong := inHandler_along (who := who) hp ep src (s.eprAt ep) s.enterHandler
    rw [hu, Flow.andThen_on, hv, Flow.andThen_on, hw] at halong
    have hin : R s.enterHandler w := Runs.keeps hrefl htrans hp hline hgap halong
    have hw' : w.params = s.params := Runs.params (s := s.enterHandler) hp halong
    exact htrans (htrans (htrans (henter s) hin) (hleave w)) (hline w.leaveHandler _ hw' (.port _ _))
  · have halong := bodyOf_along hp ha fun ep src h => hi ⟨ep, src, h⟩
    rw [h] at halong
    exact Runs.keeps hrefl htrans hp hline hgap halong

/-- Lines that end early without a fault of their own have been cut off by what fell between them. -/
theorem Flow.Along.off (h : (Flow.off t).Along who i gap s) (hf : t.fault = none) :
    ∃ u, Runs who i gap s u ∧ gap u = .off t := by
  obtain ⟨u, hu, ⟨-, f, rfl⟩ | hoff⟩ := h
  · exact absurd hf (u.fault_raise_ne_none who f)
  · exact ⟨u, hu, hoff⟩

/-- INT_DISPATCH ends early inside its handler. -/
theorem intDispatchBody_off (hp : Gap.KeepsParams gap) (h : intDispatchBody ep src who gap data s = .off t)
    (hf : t.fault = none) : ∃ u, Runs who (.intDispatch ep src) gap s.enterHandler u ∧ gap u = .off t := by
  by_cases hen : s.irqActive = false ∧ s.requestPending ep src = true
  · rw [intDispatchBody_eq hen.1 hen.2] at h
    obtain h | ⟨w, -, hret⟩ := Flow.andThen_eq_off h
    · have halong := inHandler_along (who := who) hp ep src (s.eprAt ep) s.enterHandler
      rw [h] at halong
      exact halong.off hf
    · cases hret
  · rw [intDispatchBody_stuck hen] at h
    cases h

/-- A command that ends early without a fault of its own has been cut off by what fell between its lines. -/
theorem bodyOf_off {R : State → State → Prop} (hrefl : ∀ u, R u u) (htrans : ∀ {u v w}, R u v → R v w → R u w)
    (hp : Gap.KeepsParams gap) (hline : ∀ u v, u.params = s.params → Line who i u v → R u v)
    (hgap : ∀ u v, gap u = .on v → R u v) (henter : ∀ u, R u u.enterHandler)
    (ha : admission s.params who data i = none) (h : bodyOf i who gap data s = .off t) (hf : t.fault = none) :
    ∃ u, R s u ∧ gap u = .off t := by
  by_cases hi : ∃ ep src, i = .intDispatch ep src
  · obtain ⟨ep, src, rfl⟩ := hi
    obtain ⟨u, hu, hoff⟩ := intDispatchBody_off (data := data) hp h hf
    exact ⟨u, htrans (henter s) (Runs.keeps hrefl htrans hp hline hgap hu), hoff⟩
  · have halong := bodyOf_along hp ha fun ep src h => hi ⟨ep, src, h⟩
    rw [h] at halong
    obtain ⟨u, hu, hoff⟩ := halong.off hf
    exact ⟨u, Runs.keeps hrefl htrans hp hline hgap hu, hoff⟩

theorem SameRx.enterHandler (u : State) : SameRx u u.enterHandler := ⟨rfl, rfl, rfl, rfl, rfl, rfl, rfl⟩
theorem SameRx.leaveHandler (u : State) : SameRx u u.leaveHandler := ⟨rfl, rfl, rfl, rfl, rfl, rfl, rfl⟩
theorem SameTx.enterHandler (u : State) : SameTx u u.enterHandler := ⟨rfl, rfl, rfl, rfl⟩
theorem SameTx.leaveHandler (u : State) : SameTx u u.leaveHandler := ⟨rfl, rfl, rfl, rfl⟩

/-- A command of the other channels keeps of the receive channel whatever falls between its lines keeps. -/
theorem bodyOf_keepsRx {R : State → State → Prop} (hsame : ∀ {u v}, SameRx u v → R u v)
    (htrans : ∀ {u v w}, R u v → R v w → R u w) (hp : Gap.KeepsParams gap) (hgap : ∀ u v, gap u = .on v → R u v)
    (hi : ¬ RxSide s.params i) (ha : admission s.params who data i = none) (h : bodyOf i who gap data s = .on t) :
    R s t :=
  bodyOf_keeps (fun u => hsame (.refl u)) htrans hp (fun _ _ hu hl => hsame (hl.sameRx (hu ▸ hi))) hgap
    (fun u => hsame (.enterHandler u)) (fun u => hsame (.leaveHandler u)) ha h

/-- A command of the other channels keeps of the transmit channel whatever falls between its lines keeps. -/
theorem bodyOf_keepsTx {R : State → State → Prop} (hsame : ∀ {u v}, SameTx u v → R u v)
    (htrans : ∀ {u v w}, R u v → R v w → R u w) (hp : Gap.KeepsParams gap) (hgap : ∀ u v, gap u = .on v → R u v)
    (hi : ¬ TxSide s.params i) (ha : admission s.params who data i = none) (h : bodyOf i who gap data s = .on t) :
    R s t :=
  bodyOf_keeps (fun u => hsame (.refl u)) htrans hp (fun _ _ hu hl => hsame (hl.sameTx (hu ▸ hi))) hgap
    (fun u => hsame (.enterHandler u)) (fun u => hsame (.leaveHandler u)) ha h

end

/-! ## Status writes and acknowledgements on the channels' own endpoints -/

/-- The receive channel but for its status is as it was, and the transmit channel whole. -/
structure RxStatusWritten (s t : State) : Prop where
  params : t.params = s.params
  flag : t.outFlag = s.outFlag
  room : t.outRoom = s.outRoom
  count : t.outCount = s.outCount
  unread : t.rxUnread = s.rxUnread
  offset : t.rxOffset = s.rxOffset

/-- A status that nothing has changed since it was read takes the value that is written. -/
theorem statRx_eprWritten_rxStatusWord {o r : Half} (st : EpStatus) (h : statRx o = statRx r) :
    statRx (eprWritten o (rxStatusWord r st)) = st := by
  rw [statRx_eprWritten, statRx_rxStatusWord]
  exact (EpStatus.toggled (statRx r) (statRx o) st).2 h

theorem statTx_eprWritten_txStatusWord {o r : Half} (st : EpStatus) (h : statTx o = statTx r) :
    statTx (eprWritten o (txStatusWord r st)) = st := by
  rw [statTx_eprWritten, statTx_txStatusWord]
  exact (EpStatus.toggled (statTx r) (statTx o) st).2 h

section
variable {a b : State} (hp : b.params = a.params) (st : EpStatus)
include hp

/-- Line b of EP_SET_RX_STATUS on `EP_OUT`, after line a has read the register in `a`. -/
theorem rxStatusWrite_written :
    RxStatusWritten b (b.eprWrite a.params.epOut (rxStatusWord (a.eprAt a.params.epOut) st)) := by
  rw [← hp]
  refine ⟨rfl, ?_, rfl, rfl, rfl, rfl⟩
  simpa [State.outFlag] using (flags_eprWritten _ (leavesFlags_rxStatusWord _ st)).1

/-- It sets the status where nothing has changed it since line a. -/
theorem rxStatusWrite_stat (h : b.outStat = a.outStat) :
    (b.eprWrite a.params.epOut (rxStatusWord (a.eprAt a.params.epOut) st)).outStat = st := by
  rw [State.outStat, State.outStat, ← hp] at h
  rw [← hp]
  simpa [State.outStat] using statRx_eprWritten_rxStatusWord st h

theorem txStatusWrite_flag :
    (b.eprWrite a.params.epIn (txStatusWord (a.eprAt a.params.epIn) st)).inFlag = b.inFlag := by
  rw [← hp]
  simpa [State.inFlag] using (flags_eprWritten _ (leavesFlags_txStatusWord _ st)).2.1

theorem txStatusWrite_stat (h : b.inStat = a.inStat) :
    (b.eprWrite a.params.epIn (txStatusWord (a.eprAt a.params.epIn) st)).inStat = st := by
  rw [State.inStat, State.inStat, ← hp] at h
  rw [← hp]
  simpa [State.inStat] using statTx_eprWritten_txStatusWord st h

end

section
variable (s : State) (r : Half)

theorem ackRx_out : (s.eprWrite s.params.epOut (ackRxWord r)).outStat = s.outStat
    ∧ (s.eprWrite s.params.epOut (ackRxWord r)).outFlag = false := by
  have hflag : ctrRx (ackRxWord r) = false := by simp [ctrRx, ackRxWord, RW_FIELDS]
  simp [State.outStat, State.outFlag, statRx_eprWritten_of_disabled _ (status_ackWords r).1, ctrRx_eprWritten, hflag]

theorem ackTx_in : (s.eprWrite s.params.epIn (ackTxWord r)).inStat = s.inStat
    ∧ (s.eprWrite s.params.epIn (ackTxWord r)).inFlag = false := by
  have hflag : ctrTx (ackTxWord r) = false := by simp [ctrTx, ackTxWord, RW_FIELDS]
  simp [State.inStat, State.inFlag, statTx_eprWritten_of_disabled _ (status_ackWords r).2.2.2, ctrTx_eprWritten, hflag]

end

/-! ## RX_COMPLETE -/

section
variable {who : Agent} {gap : Gap} {s t : State}

/-- RX_COMPLETE's lines that have all run, with the states before and after each gap. -/
theorem rxCompleteLines_on (h : rxCompleteLines who gap s = .on t) :
    (s.rxUnread = 0 ∧ s.rxOffset = 0) ∧ ∃ a b c m d, gap s = .on a ∧ gap a = .on b ∧
      gap (b.eprWrite a.params.epOut (rxStatusWord (a.eprAt a.params.epOut) .nak)) = .on c ∧
      s.outCount ≤ c.params.rxCap ∧ gap (c.setRxBuf m) = .on d ∧ t = d.setRxUnread s.outCount := by
  unfold rxCompleteLines at h
  split at h
  · cases h
  · rename_i hempty
    obtain ⟨a, ha, h⟩ := Flow.andThen_eq_on h
    obtain ⟨w, hw, h⟩ := Flow.andThen_eq_on h
    obtain ⟨b, hb, hw⟩ := Flow.andThen_eq_on hw
    cases hw
    obtain ⟨c, hc, h⟩ := Flow.andThen_eq_on h
    split at h
    · cases h
    · rename_i hcap
      obtain ⟨bytes, -, h⟩ := Flow.orRaise_eq_on h
      obtain ⟨u, hu, h⟩ := Flow.orRaise_eq_on h
      obtain ⟨-, rfl⟩ := State.writeRxBuf_ok hu
      obtain ⟨d, hd, h⟩ := Flow.andThen_eq_on h
      cases h
      exact ⟨by omega, a, b, c, _, d, ha, hb, hc, Nat.not_lt.mp hcap, hd, rfl⟩

/-- No packet in the receive buffer of `EP_OUT` is longer than `m`, nor can one come. -/
def State.RxFitsFor (m : Nat) (s : State) : Prop := (s.outStat = .valid → s.outRoom ≤ m) ∧ s.outCount ≤ m

/-- Which is more than R55 rests on. -/
theorem State.RxFitsFor.packetFits (h : s.RxFitsFor s.params.maxPacket) : s.RxPacketFits := ⟨h.1, fun _ => h.2⟩

theorem SameRx.fitsFor {m : Nat} (h : SameRx s t) (hs : s.RxFitsFor m) : t.RxFitsFor m :=
  ⟨fun hv => h.room.trans_le (hs.1 (h.stat.symm.trans hv)), h.count.trans_le hs.2⟩

theorem RxQuiet.fitsFor {m : Nat} (h : RxQuiet s t) (hs : s.RxFitsFor m) : t.RxFitsFor m := by
  obtain h | h := h
  · exact h.fitsFor hs
  · exact ⟨fun _ => h.room.trans_le (hs.1 h.armed), h.count.trans (hs.1 h.armed)⟩

/-- RX_COMPLETE with WIRE steps between its lines: it publishes the count that line 1 read; a NAK that a packet overtakes
may leave the endpoint armed, with the room it had. -/
theorem rxCompleteLines_view (hg : ∀ u v, gap u = .on v → RxQuiet u v) (h : rxCompleteLines who gap s = .on t) :
    RxPublish s t ∧ (∀ m, s.RxFitsFor m → t.RxFitsFor m ∧ t.rxUnread ≤ m)
      ∧ (s.outStat ≠ .valid → t.outStat = .nak ∧ t.outFlag = s.outFlag) := by
  obtain ⟨hempty, a, b, c, m, d, ha, hb, hc, hcap, hd, rfl⟩ := rxCompleteLines_on h
  have qa := hg _ _ ha
  have qb := hg _ _ hb
  have qc := hg _ _ hc
  have qd := hg _ _ hd
  have hw := rxStatusWrite_written qb.params .nak
  have hstat (h : b.outStat = a.outStat) := rxStatusWrite_stat qb.params .nak h
  generalize b.eprWrite a.params.epOut (rxStatusWord (a.eprAt a.params.epOut) .nak) = w at hw hstat hc qc
  have hparams : c.params = s.params := (qc.params.trans hw.params).trans (qb.params.trans qa.params)
  have hroom : d.outRoom = s.outRoom :=
    (qd.room.trans qc.room).trans (hw.room.trans (qb.room.trans qa.room))
  have hoffset : d.rxOffset = s.rxOffset :=
    (qd.offset.trans qc.offset).trans (hw.offset.trans (qb.offset.trans qa.offset))
  refine ⟨⟨qd.params.trans hparams, hroom, hempty, hoffset.trans hempty.2, hparams ▸ hcap⟩, fun k hk => ?_, fun hv => ?_⟩
  · have hka := qa.fitsFor hk
    have hkb := qb.fitsFor hka
    have hkw : w.RxFitsFor k := by
      refine ⟨fun hv => ?_, hw.count.trans_le hkb.2⟩
      obtain hsame | harr := qb
      · exact absurd ((hstat hsame.stat).symm.trans hv) (by decide)
      · exact (hw.room.trans harr.room).trans_le (hka.1 harr.armed)
    have hkd := qd.fitsFor (s := c.setRxBuf m) (qc.fitsFor hkw)
    exact ⟨hkd, hk.2⟩
  · have sa := qa.same hv
    have sb := qb.same (by rwa [sa.stat])
    have hnak : w.outStat = .nak := hstat sb.stat
    have sc := qc.same (by rw [hnak]; decide)
    have hcnak : c.outStat = .nak := sc.stat.trans hnak
    have sd := qd.same (s := c.setRxBuf m) (by change c.outStat ≠ _; rw [hcnak]; decide)
    exact ⟨sd.stat.trans hcnak, (sd.flag.trans sc.flag).trans (hw.flag.trans (sb.flag.trans sa.flag))⟩

/-- INT_DISPATCH of the RX source on `EP_OUT` with WIRE steps between its lines. -/
theorem intDispatch_rxDispatch {ep : EpNum} {data : List Byte} (hg : ∀ u v, gap u = .on v → RxQuiet u v)
    (hep : ep = s.params.epOut) (h : intDispatchBody ep .rx who gap data s = .on t) : RxDispatch s t := by
  obtain ⟨-, hreq, u, v, w, hu, hv, hw, rfl⟩ := intDispatchBody_on h
  obtain ⟨x, hx, hv⟩ := Flow.andThen_eq_on hv
  have qu : RxQuiet s u := RxQuiet.trans (.inl (SameRx.enterHandler s)) (hg _ _ hu)
  have qx := hg _ _ hx
  have qw : RxQuiet v (w.leaveHandler.ret who .unit) :=
    (hg _ _ hw).trans (.inl ((SameRx.leaveHandler w).trans (Untouched.ret _ who _).sameRx))
  have hep' : ep = u.params.epOut := hep.trans (qu.params ▸ rfl)
  have hwaiting : s.outFlag = true := by rw [State.outFlag, ← hep]; exact hreq
  obtain ⟨hastat, haflag⟩ := ackRx_out u (s.eprAt ep)
  rw [← hep'] at hastat haflag
  rw [callbackLines_rx_epOut (hep'.trans (qx.params ▸ rfl))] at hv
  obtain ⟨hpub, hfits, hnak⟩ := rxCompleteLines_view hg hv
  have hxp : x.params = s.params := qx.params.trans qu.params
  have hxu : x.rxUnread = s.rxUnread := qx.unread.trans qu.unread
  have hxo : x.rxOffset = s.rxOffset := qx.offset.trans qu.offset
  refine ⟨⟨qw.params.trans (hpub.params.trans hxp), ?_, ?_, qw.offset.trans hpub.offset, ?_⟩, hwaiting, fun hs => ?_,
    fun hs => ?_⟩
  · exact qw.room.trans (hpub.room.trans (qx.room.trans qu.room))
  · rw [← hxu, ← hxo]; exact hpub.wasEmpty
  · rw [qw.unread, ← hxp]; exact hpub.unread
  · have hsu : u.RxFitsFor s.params.maxPacket := qu.fitsFor ⟨hs.1, hs.2 hwaiting⟩
    obtain ⟨hv, hvu⟩ := hfits s.params.maxPacket (qx.fitsFor ⟨fun h => hsu.1 (hastat.symm.trans h), hsu.2⟩)
    have ht := qw.fitsFor hv
    rw [← hxp, ← hpub.params, ← qw.params] at ht
    exact ⟨ht.packetFits, qw.unread ▸ hvu⟩
  · have su := qu.same hs
    have sx := qx.same (by rw [hastat, su.stat]; exact hs)
    obtain ⟨hvstat, hvflag⟩ := hnak (by rw [sx.stat, hastat, su.stat]; exact hs)
    have sw := qw.same (by rw [hvstat]; decide)
    exact ⟨sw.stat.trans hvstat, sw.flag.trans (hvflag.trans (sx.flag.trans haflag))⟩

/-- INT_DISPATCH of the TX source on `EP_IN` with WIRE steps between its lines. -/
theorem intDispatch_txDispatch {ep : EpNum} {data : List Byte} (hg : ∀ u v, gap u = .on v → TxQuiet u v)
    (hep : ep = s.params.epIn) (h : intDispatchBody ep .tx who gap data s = .on t) : TxDispatch s t := by
  obtain ⟨-, hreq, u, v, w, hu, hv, hw, rfl⟩ := intDispatchBody_on h
  obtain ⟨x, hx, hv⟩ := Flow.andThen_eq_on hv
  have qu : TxQuiet s u := TxQuiet.trans (.inl (SameTx.enterHandler s)) (hg _ _ hu)
  have qx := hg _ _ hx
  have qw : TxQuiet v (w.leaveHandler.ret who .unit) :=
    (hg _ _ hw).trans (.inl ((SameTx.leaveHandler w).trans (Untouched.ret _ who _).sameTx))
  have hep' : ep = u.params.epIn := hep.trans (qu.params ▸ rfl)
  obtain ⟨hastat, haflag⟩ := ackTx_in u (s.eprAt ep)
  rw [← hep'] at hastat haflag
  obtain rfl : x.setTxPending 0 = v := by
    rw [callbackLines, if_pos (hep'.trans (qx.params ▸ rfl))] at hv
    cases hv; rfl
  refine ⟨qw.params.trans (qx.params.trans qu.params), ?_, qw.pending, fun hs => ?_⟩
  · rw [State.inFlag, ← hep]; exact hreq
  · have su := qu.same hs
    have sx := qx.same (by rw [hastat, su.stat]; exact hs)
    have hxstat : x.inStat = s.inStat := sx.stat.trans (hastat.trans su.stat)
    have sw := qw.same (by change x.inStat ≠ _; rwa [hxstat])
    exact ⟨sw.stat.trans hxstat, sw.flag.trans (sx.flag.trans haflag)⟩

end

end Sys2Proof.Machine

/-! Whole commands of IRQ as moves, and what falls between the lines of TASK (00_scope.md R10, 10_state.md R54). -/

namespace Sys2Proof.Machine

/-! ## Commands that the premises of R54 allow -/

/-- A command that CLEAN allows and that is no callback outside INT_DISPATCH, unless `raw` allows those. -/
def Command.Allowed (raw : Bool) (p : Params) (c : Command) : Prop :=
  c.clean p = true ∧ (raw = false → c.noCallback = true)

/-- What that says of the command it spells, as far as the two channels are concerned. -/
structure CleanInstr (raw : Bool) (p : Params) (i : Instr) : Prop where
  rxStatus : ∀ ep st, i = .epSetRxStatus ep st → ep ≠ p.epOut
  txStatus : ∀ ep st, i = .epSetTxStatus ep st → ep ≠ p.epIn
  callback : raw = false → i ≠ .rxComplete ∧ i ≠ .txComplete

theorem Command.Allowed.cleanInstr {raw : Bool} {p : Params} {c : Command} {i : Instr} (h : c.Allowed raw p)
    (hd : decode c.word = .ok i) : CleanInstr raw p i := by
  obtain ⟨hclean, hcall⟩ := h
  rw [Command.clean, hd] at hclean
  refine ⟨?_, ?_, fun hraw => ?_⟩
  · rintro ep st rfl
    exact (of_decide_eq_true hclean).1
  · rintro ep st rfl
    exact (of_decide_eq_true hclean).2
  · have hcall := hcall hraw
    rw [Command.noCallback, hd] at hcall
    constructor <;> rintro rfl <;> cases hcall

section
variable {raw : Bool} {p : Params} {i : Instr}

/-- The commands that may change the receive channel. -/
theorem rxSide_cases (hc : CleanInstr raw p i) (h : RxSide p i) :
    (raw = true ∧ i = .rxComplete) ∨ (∃ k, i = .rxDrain k) ∨ (∃ n, i = .hostOut p.epOut n)
      ∨ i = .intDispatch p.epOut .rx := by
  obtain ⟨hr, hw⟩ := h
  cases i with
  | epSetRxStatus ep st => exact absurd (by simpa [Instr.registerWritten] using hw) (hc.rxStatus ep st rfl)
  | rxComplete => exact .inl ⟨by cases raw with | true => rfl | false => exact absurd rfl (hc.callback rfl).1, rfl⟩
  | rxDrain k => exact .inr (.inl ⟨k, rfl⟩)
  | hostOut ep n =>
    obtain rfl : ep = p.epOut := by simpa [Instr.registerWritten] using hw
    exact .inr (.inr (.inl ⟨n, rfl⟩))
  | intDispatch ep src =>
    cases src with
    | rx =>
      obtain rfl : ep = p.epOut := by simpa [Instr.registerWritten] using hw
      exact .inr (.inr (.inr rfl))
    | tx | setup => cases hr
  | _ => cases hr

/-- The commands that may change the transmit channel. -/
theorem txSide_cases (hc : CleanInstr raw p i) (h : TxSide p i) :
    (raw = true ∧ i = .txComplete) ∨ (∃ k, i = .txSubmit k) ∨ i = .hostIn p.epIn ∨ i = .intDispatch p.epIn .tx := by
  obtain rfl | ⟨hr, hw⟩ := h
  · exact .inl ⟨by cases raw with | true => rfl | false => exact absurd rfl (hc.callback rfl).2, rfl⟩
  · cases i with
    | epSetTxStatus ep st => exact absurd (by simpa [Instr.registerWritten] using hw) (hc.txStatus ep st rfl)
    | txSubmit k => exact .inr (.inl ⟨k, rfl⟩)
    | hostIn ep =>
      obtain rfl : ep = p.epIn := by simpa [Instr.registerWritten] using hw
      exact .inr (.inr (.inl rfl))
    | intDispatch ep src =>
      cases src with
      | tx =>
        obtain rfl : ep = p.epIn := by simpa [Instr.registerWritten] using hw
        exact .inr (.inr (.inr rfl))
      | rx | setup => cases hr
    | _ => cases hr

end

/-! ## A whole command of IRQ -/

/-- One move between two lines of TASK: a WIRE step or a whole command of IRQ. -/
structure Move (raw : Bool) (s t : State) : Prop where
  steady : Steady s t
  rx : RxMove raw s t
  tx : TxMove raw s t

theorem WireMove.move {raw : Bool} {s t : State} (h : WireMove s t) : Move raw s t := ⟨h.steady, .quiet h.rx, .quiet h.tx⟩

/-- Moves in any number. -/
abbrev Moves (raw : Bool) : State → State → Prop := Relation.ReflTransGen (Move raw)

theorem Untouched.moves {raw : Bool} {s t : State} (h : Untouched s t) : Moves raw s t := .single h.wireMove.move

theorem Moves.steady {raw : Bool} {s t : State} (h : Moves raw s t) : Steady s t := by
  induction h with
  | refl => exact .refl s
  | tail _ hlast ih => exact ih.trans hlast.steady

/-- What every move keeps, any number keeps. -/
theorem Moves.keeps {raw : Bool} {s t : State} {P : State → Prop} (h : Moves raw s t)
    (hP : ∀ u v, Move raw u v → P u → P v) (hs : P s) : P t := by
  induction h with
  | refl => exact hs
  | tail _ hlast ih => exact hP _ _ hlast ih

section
variable {raw : Bool} {gap : Gap} {i : Instr} {data : List Byte} {s t : State}

/-- The lines of a command of IRQ with WIRE steps between them. -/
theorem bodyOf_steady {who : Agent} (hp : Gap.KeepsParams gap) (hg : ∀ u v, gap u = .on v → Steady u v)
    (ha : admission s.params who data i = none) (h : bodyOf i who gap data s = .on t) : Steady s t := by
  have hruns {i : Instr} {u v : State} : Runs who i gap u v → Steady u v :=
    Runs.keeps Steady.refl Steady.trans hp (fun _ _ _ hl => hl.steady) hg
  by_cases hi : ∃ ep src, i = .intDispatch ep src
  · obtain ⟨ep, src, rfl⟩ := hi
    obtain ⟨hidle, -, u, v, w, hu, hv, hw, rfl⟩ := intDispatchBody_on (data := data) h
    have halong := inHandler_along (who := who) hp ep src (s.eprAt ep) s.enterHandler
    rw [hu, Flow.andThen_on, hv, Flow.andThen_on, hw] at halong
    have hin : Steady s.enterHandler w := hruns halong
    have hret := (Untouched.ret w.leaveHandler who .unit).toSteady
    exact ⟨hret.params.trans hin.params, hret.resets.trans hin.resets, hret.irqActive.trans hidle.symm,
      hret.fresh.trans hin.fresh, hret.taskGaps.trans hin.taskGaps, hin.fault ∘ hret.fault⟩
  · have halong := bodyOf_along hp ha fun ep src h => hi ⟨ep, src, h⟩
    rw [h] at halong
    exact hruns halong

variable (hg : ∀ u v, gap u = .on v → WireMove u v) (hc : CleanInstr raw s.params i)
  (ha : admission s.params .irq data i = none) (h : bodyOf i .irq gap data s = .on t)
include hg hc ha h

theorem irqBody_rxMove : RxMove raw s t := by
  have hq : ∀ u v, gap u = .on v → RxQuiet u v := fun u v huv => (hg u v huv).rx
  obtain ⟨-, -, hirq, -⟩ := (State.admits_iff (s := { s with issuer := .irq, inData := data })).mp ha
  by_cases hi : RxSide s.params i
  · obtain ⟨hraw, rfl⟩ | ⟨k, rfl⟩ | ⟨n, rfl⟩ | rfl := rxSide_cases hc hi
    · obtain ⟨u, hu, hret⟩ := Flow.andThen_eq_on h
      cases hret
      have hpub := (rxCompleteLines_view hq hu).1
      have hsame := (Untouched.ret u .irq .unit).sameRx
      exact .published hraw ⟨hsame.params.trans hpub.params, hsame.room.trans hpub.room, hpub.wasEmpty,
        hsame.offset.trans hpub.offset, hsame.unread.trans_le hpub.unread⟩
    · cases hirq
    · cases hirq
    · exact .dispatched (intDispatch_rxDispatch (data := data) hq rfl h)
  · exact .quiet (bodyOf_keepsRx .inl RxQuiet.trans (fun u v huv => (hg u v huv).rx.params) hq hi ha h)

theorem irqBody_txMove : TxMove raw s t := by
  have hq : ∀ u v, gap u = .on v → TxQuiet u v := fun u v huv => (hg u v huv).tx
  obtain ⟨-, -, hirq, -⟩ := (State.admits_iff (s := { s with issuer := .irq, inData := data })).mp ha
  by_cases hi : TxSide s.params i
  · obtain ⟨hraw, rfl⟩ | ⟨k, rfl⟩ | rfl | rfl := txSide_cases hc hi
    · cases h
      exact .completed hraw (by simp [txCompleteLine]) (by simp [txCompleteLine])
    · cases hirq
    · cases hirq
    · exact .dispatched (intDispatch_txDispatch (data := data) hq rfl h)
  · exact .quiet (bodyOf_keepsTx .inl TxQuiet.trans (fun u v huv => (hg u v huv).tx.params) hq hi ha h)

theorem irqBody_move : Move raw s t :=
  ⟨bodyOf_steady (fun u v huv => (hg u v huv).rx.params) (fun u v huv => (hg u v huv).steady) ha h,
    irqBody_rxMove hg hc ha h, irqBody_txMove hg hc ha h⟩

end

/-- Elementary changes take no fault back (10_state.md R52). -/
theorem Elems.fault {s t : State} (h : Elems s t) (hf : t.fault = none) : s.fault = none := by
  induction h with
  | refl => exact hf
  | tail _ hlast ih =>
    refine ih (Option.eq_none_iff_forall_ne_some.mpr fun f hs => ?_)
    rw [hlast.marksKept.1 f hs] at hf
    cases hf

theorem Flow.Within.fault {s t : State} {x : Flow} (h : x.Within s) (ht : x.Reaches t) (hf : t.fault = none) :
    s.fault = none := by
  obtain rfl | rfl := ht
  · exact Elems.fault h hf
  · exact Elems.fault h hf

theorem irqGap_wireMove {u v : State} (h : irqGap u = .on v) : WireMove u v := by
  have hq := irqGap_quietFrom u
  rwa [h] at hq

/-- A command of IRQ that raised no fault of its own and has not run all its lines was discarded by a RESET. -/
theorem irqBody_off {i : Instr} {data : List Byte} {s t : State} (ha : admission s.params .irq data i = none)
    (h : bodyOf i .irq irqGap data s = .off t) (hf : t.fault = none) : Wiped s t := by
  obtain ⟨u, hu, hcut⟩ := bodyOf_off (R := fun u v => v.resets = u.resets) (fun _ => rfl) (fun h h' => h'.trans h)
    (gapOf_keepsParams .irq) (fun _ _ _ hl => hl.steady.resets) (fun _ _ h => (irqGap_wireMove h).steady.resets)
    (fun _ => rfl) ha h hf
  have hq := irqGap_quietFrom u
  rw [show irqGap u = .off t from hcut] at hq
  exact Wiped.after hu.symm hq

/-- A command of IRQ, with what falls between its lines, that raised no fault: moves, or a RESET that cut it off. -/
theorem runCommand_irq {raw : Bool} {c : Command} {s t : State} (hc : c.Allowed raw s.params)
    (h : (runCommand .irq irqGap c s).Reaches t) (hf : t.fault = none) : Moves raw s t ∨ Wiped s t := by
  obtain ⟨-, ⟨r, -, rfl⟩ | ⟨i, hd, ha, hrun⟩⟩ := runCommand_reaches h
  · exact .inl (Untouched.refuse s .irq r).moves
  · have hclear := Untouched.setPort s .irq Port.empty
    have ha' : admission (s.clearPort .irq).params .irq c.data i = none := by simpa using ha
    rw [hrun] at h
    obtain hon | hoff := h
    · exact .inl (hclear.moves.tail (irqBody_move (s := s.clearPort .irq) (fun _ _ => irqGap_wireMove)
        (by simpa using hc.cleanInstr hd) ha' hon))
    · exact .inr (Wiped.after hclear.resets.symm (irqBody_off ha' hoff hf))

/-! ## What falls between the lines of TASK -/

/-- TASK goes on after moves, or is cut off by a RESET. -/
def Flow.MovesFrom (raw : Bool) (s : State) : Flow → Prop
  | .on t => t.fault = none → Moves raw s t
  | .off t => t.fault = none → Wiped s t
  | .stuck _ => True

theorem Flow.QuietFrom.movesFrom {raw : Bool} {s : State} {x : Flow} (h : x.QuietFrom s) : x.MovesFrom raw s := by
  cases x with
  | on t => exact fun _ => .single (WireMove.move h)
  | off t => exact fun _ => h
  | stuck f => trivial

/-- Moves before a flow come before its own. -/
theorem Flow.MovesFrom.after {raw : Bool} {s t : State} {x : Flow} (hx : x.MovesFrom raw t)
    (h : ∀ u, x.Reaches u → u.fault = none → Moves raw s t) : x.MovesFrom raw s := by
  cases x with
  | on u => exact fun hf => (h u (.inl rfl) hf).trans (hx hf)
  | off u => exact fun hf => Wiped.after (h u (.inr rfl) hf).steady.resets.symm (hx hf)
  | stuck f => trivial

theorem Flow.movesFrom_of_faulty {raw : Bool} {s u : State} {x : Flow} (hx : x.Within u) (hu : u.fault ≠ none) :
    x.MovesFrom raw s := by
  cases x with
  | on t => exact fun hf => absurd (Elems.fault hx hf) hu
  | off t => exact fun hf => absurd (Elems.fault hx hf) hu
  | stuck f => trivial

/-- What a whole command of IRQ leads to, as TASK sees it. -/
def rejoinTask (s t : State) : Flow :=
  if t.resets ≠ s.resets ∨ t.irqActive = true then .off (t.setGaps t.taskGaps []) else .on (t.setGaps t.taskGaps [])

theorem irqMove_eq (c : Command) (gaps : List (List Quiet)) (s : State) : irqMove c gaps s =
    match runCommand .irq irqGap c (s.setGaps s.taskGaps gaps) with
    | .stuck f => .stuck f
    | .on t | .off t => rejoinTask s t := rfl

/-- TASK is cut off only where a RESET has come: IRQ stops inside a handler only by a fault. -/
theorem rejoinTask_movesFrom {raw : Bool} {s t : State} (hidle : s.irqActive = false)
    (h : t.fault = none → Moves raw s t ∨ Wiped s t) : (rejoinTask s t).MovesFrom raw s := by
  unfold rejoinTask
  split
  · rename_i hcut
    intro hf
    obtain hm | hw := h hf
    · obtain hres | hact := hcut
      · exact absurd hm.steady.resets hres
      · exact absurd (hact.symm.trans (hm.steady.irqActive.trans hidle)) (by decide)
    · exact ⟨hw.resets, hw.blank⟩
  · rename_i hgo
    intro hf
    obtain hm | hw := h hf
    · exact hm.trans (Untouched.setIrqGaps t []).moves
    · exact absurd (.inl (Nat.ne_of_gt hw.resets)) hgo

theorem irqMove_movesFrom {raw : Bool} {c : Command} {gaps : List (List Quiet)} {s : State}
    (hc : c.Allowed raw s.params) : (irqMove c gaps s).MovesFrom raw s := by
  have hgaps := Untouched.setIrqGaps s gaps
  have close {t : State} (ht : (runCommand .irq irqGap c (s.setGaps s.taskGaps gaps)).Reaches t) :
      (rejoinTask s t).MovesFrom raw s := by
    refine rejoinTask_movesFrom (State.mayStep_irq (runCommand_reaches ht).1).1 fun hf => ?_
    obtain hm | hw := runCommand_irq (s := s.setGaps s.taskGaps gaps) hc ht hf
    · exact .inl (hgaps.moves.trans hm)
    · exact .inr (Wiped.after hgaps.resets.symm hw)
  rw [irqMove_eq]
  cases hx : runCommand .irq irqGap c (s.setGaps s.taskGaps gaps) with
  | on t => exact close (.inl hx)
  | off t => exact close (.inr hx)
  | stuck f => trivial

/-- A move whose command, if it is one of IRQ, is allowed. -/
def Between.Allowed (raw : Bool) (p : Params) : Between → Prop
  | .quiet _ => True
  | .irq c _ => c.Allowed raw p

theorem betweenMove_movesFrom {raw : Bool} {b : Between} {s : State} (hb : b.Allowed raw s.params) :
    (betweenMove b s).MovesFrom raw s := by
  cases b with
  | quiet q => exact (quietMove_quietFrom q s).movesFrom
  | irq c gaps => exact irqMove_movesFrom hb

theorem betweenMoves_movesFrom {raw : Bool} {bs : List Between} {s : State}
    (hbs : ∀ b ∈ bs, b.Allowed raw s.params) : (betweenMoves bs s).MovesFrom raw s := by
  induction bs generalizing s with
  | nil => exact fun _ => .refl
  | cons b bs ih =>
    have hb := betweenMove_movesFrom (s := s) (hbs b (List.mem_cons_self ..))
    rw [betweenMoves]
    cases hx : betweenMove b s with
    | on u =>
      rw [hx] at hb
      by_cases hf : u.fault = none
      · have hm : Moves raw s u := hb hf
        exact (ih fun b' hb' => hm.steady.params ▸ hbs b' (List.mem_cons_of_mem b hb')).after fun _ _ _ => hm
      · exact Flow.movesFrom_of_faulty (betweenMoves_within bs u) hf
    | off u => rw [hx] at hb; exact hb
    | stuck f => trivial

/-- The IRQ commands that are still to fall between TASK's lines are allowed. -/
def State.GapsAllowed (raw : Bool) (s : State) : Prop := ∀ g ∈ s.taskGaps, ∀ b ∈ g, b.Allowed raw s.params

/-- What falls between two lines of TASK: the moves of the first list, which is then gone. -/
theorem taskGap_movesFrom {raw : Bool} {s : State} (hs : s.GapsAllowed raw) :
    ∃ tg, tg ⊆ s.taskGaps ∧ (taskGap s).MovesFrom raw (s.setGaps tg s.irqGaps) := by
  unfold taskGap
  cases hg : s.taskGaps with
  | nil =>
    have hs : s.setGaps [] s.irqGaps = s := by rw [State.setGaps, ← hg]
    exact ⟨[], List.Subset.refl _, by rw [hs]; exact fun _ => .refl⟩
  | cons g rest =>
    refine ⟨rest, List.subset_cons_self g rest, betweenMoves_movesFrom fun b hb => ?_⟩
    exact hs g (hg ▸ List.mem_cons_self ..) b hb

/-- TASK's moves that are still to fall are WIRE steps and RESETs. -/
def State.GapsQuiet (s : State) : Prop := ∀ g ∈ s.taskGaps, ∀ b ∈ g, ∃ q, b = .quiet q

theorem betweenMoves_quietFrom {bs : List Between} (hbs : ∀ b ∈ bs, ∃ q, b = .quiet q) (s : State) :
    (betweenMoves bs s).QuietFrom s := by
  induction bs generalizing s with
  | nil => exact (Untouched.refl s).wireMove
  | cons b bs ih =>
    obtain ⟨q, rfl⟩ := hbs b (List.mem_cons_self ..)
    have hq : (betweenMove (.quiet q) s).QuietFrom s := quietMove_quietFrom q s
    rw [betweenMoves]
    cases hx : betweenMove (.quiet q) s with
    | on u => rw [hx] at hq; exact (ih (fun b hb => hbs b (List.mem_cons_of_mem _ hb)) u).after hq
    | off u => rw [hx] at hq; exact hq
    | stuck f => trivial

/-! ## What a command can rely on -/

theorem SameRx.setGaps (s : State) (tg : List (List Between)) (ig : List (List Quiet)) : SameRx s (s.setGaps tg ig) :=
  ⟨rfl, rfl, rfl, rfl, rfl, rfl, rfl⟩

/-- Whatever every `M` keeps is kept over what falls between two lines, where `G` holds of the moves still to fall, and no
fault is taken back. -/
def Gap.Rely (gap : Gap) (G : State → Prop) (M : State → State → Prop) : Prop :=
  ∀ (P : State → Prop), (∀ u v, M u v → P u → P v) → ∀ u v, gap u = .on v → v.fault = none →
    u.fault = none ∧ (G u → P u → G v ∧ P v)

/-- A predicate that reads the moves still to fall and the parameters alone. -/
def ReadsGaps (G : State → Prop) : Prop :=
  ∀ u v, v.taskGaps = u.taskGaps → v.irqGaps = u.irqGaps → v.params = u.params → G u → G v

/-- What falls between two lines of TASK, as its command sees it. -/
structure TaskMove (raw : Bool) (s t : State) : Prop where
  params : t.params = s.params
  fresh : t.fresh = s.fresh
  rx : RxMove raw s t
  tx : TxMove raw s t

theorem Move.taskMove {raw : Bool} {s t : State} (h : Move raw s t) : TaskMove raw s t :=
  ⟨h.steady.params, h.steady.fresh, h.rx, h.tx⟩

theorem TaskMove.setGaps {raw : Bool} (s : State) (tg : List (List Between)) (ig : List (List Quiet)) :
    TaskMove raw s (s.setGaps tg ig) :=
  ⟨rfl, rfl, .quiet (.inl (.setGaps s tg ig)), .quiet (.inl ⟨rfl, rfl, rfl, rfl⟩)⟩

theorem State.readsGaps_gapsAllowed (raw : Bool) : ReadsGaps (State.GapsAllowed raw) := by
  intro u v htg _ hp hu
  rw [State.GapsAllowed, htg, hp]; exact hu

theorem State.readsGaps_gapsQuiet : ReadsGaps State.GapsQuiet := by
  intro u v htg _ _ hu
  rw [State.GapsQuiet, htg]; exact hu

theorem taskGap_rely (raw : Bool) : Gap.Rely taskGap (State.GapsAllowed raw) (TaskMove raw) := by
  intro P hP u v h hf
  have hw := taskGap_elementary u
  rw [h] at hw
  refine ⟨Elems.fault hw hf, fun hG hPu => ?_⟩
  obtain ⟨tg, hsub, hm⟩ := taskGap_movesFrom hG
  rw [h] at hm
  have hmoves : Moves raw (u.setGaps tg u.irqGaps) v := hm hf
  refine ⟨fun g hg b hb => ?_, hmoves.keeps (fun _ _ h => hP _ _ h.taskMove) (hP _ _ (.setGaps u tg _) hPu)⟩
  rw [hmoves.steady.params]
  rw [hmoves.steady.taskGaps] at hg
  exact hG g (hsub hg) b hb

/-- Where no command of IRQ falls between TASK's lines, WIRE steps do. -/
theorem taskGap_rely_quiet : Gap.Rely taskGap State.GapsQuiet RxQuiet := by
  intro P hP u v h hf
  have hw := taskGap_elementary u
  rw [h] at hw
  refine ⟨Elems.fault hw hf, fun hG hPu => ?_⟩
  unfold taskGap at h
  cases hg : u.taskGaps with
  | nil => rw [hg] at h; cases h; exact ⟨hG, hPu⟩
  | cons g rest =>
    rw [hg] at h
    have hq := betweenMoves_quietFrom (hG g (hg ▸ List.mem_cons_self ..)) (u.setGaps rest u.irqGaps)
    rw [show betweenMoves g (u.setGaps rest u.irqGaps) = .on v from h] at hq
    have hm : WireMove (u.setGaps rest u.irqGaps) v := hq
    refine ⟨fun g' hg' => ?_, hP _ _ hm.rx (hP _ _ (.inl (.setGaps u rest _)) hPu)⟩
    rw [hm.steady.taskGaps] at hg'
    exact hG g' (hg ▸ List.mem_cons_of_mem g hg')

/-- IRQ's moves that are still to fall are none, or leave an armed endpoint armed. -/
def State.GapsCalm (s : State) : Prop := (∀ g ∈ s.irqGaps, g = []) ∨ s.params.rxAutoNak = false

theorem State.readsGaps_gapsCalm : ReadsGaps State.GapsCalm := by
  intro u v _ hig hp hu
  rw [State.GapsCalm, hig, hp]; exact hu

/-- Then they leave STAT_RX of `EP_OUT` as it is. -/
theorem irqGap_rely_calm : Gap.Rely irqGap State.GapsCalm fun u v => RxQuiet u v ∧ v.outStat = u.outStat := by
  intro P hP u v h hf
  have hm := irqGap_wireMove h
  refine ⟨hm.steady.fault hf, fun hG hPu => ?_⟩
  obtain hG | hnak := hG
  · unfold irqGap at h
    cases hg : u.irqGaps with
    | nil => rw [hg] at h; cases h; exact ⟨.inl hG, hPu⟩
    | cons g rest =>
      rw [hg] at h hG
      obtain rfl : g = [] := hG g (List.mem_cons_self ..)
      cases h
      exact ⟨.inl fun g' hg' => hG g' (List.mem_cons_of_mem _ hg'),
        hP _ _ ⟨.inl (.setGaps u _ rest), rfl⟩ hPu⟩
  · refine ⟨.inr (hm.rx.params ▸ hnak), hP _ _ ⟨hm.rx, ?_⟩ hPu⟩
    obtain h | h := hm.rx
    · exact h.stat
    · rw [h.stat, h.armed, hnak]; rfl

end Sys2Proof.Machine

/-! The commands of TASK and the two channels: RX_DRAIN and TX_SUBMIT with whatever falls between their lines
(41_rx_channel.md R152, 42_tx_channel.md R170), and every other command. -/

namespace Sys2Proof.Machine

/-! ## A body under what its gaps can be relied on to keep -/

section
variable {gap : Gap} {G : State → Prop} {M : State → State → Prop} (hr : gap.Rely G M) (hG : ReadsGaps G)
  (hp : Gap.KeepsParams gap) {P : State → Prop} (hP : ∀ u v, M u v → P u → P v)
  {who : Agent} {i : Instr} {data : List Byte} {s t : State} (ha : admission s.params who data i = none)
  (hline : ∀ u v, u.params = s.params → Line who i u v → P u → P v) (henter : ∀ u, P u → P u.enterHandler)
include hr hG hp hP ha hline henter

theorem bodyOf_rely (hleave : ∀ u, P u → P u.leaveHandler) (h : bodyOf i who gap data s = .on t) (hf : t.fault = none)
    (hGs : G s) (hPs : P s) : G t ∧ P t :=
  (bodyOf_keeps (R := fun u v => v.fault = none → u.fault = none ∧ (G u → P u → G v ∧ P v)) (fun _ hf => ⟨hf, .intro⟩)
    (fun huv hvw hf => by
      obtain ⟨hf, hvw⟩ := hvw hf
      obtain ⟨hf, huv⟩ := huv hf
      exact ⟨hf, fun hGu hPu => (huv hGu hPu).elim hvw⟩)
    hp
    (fun u v hu hl hf => ⟨hl.steady.fault hf, fun hGu hPu =>
      ⟨hG u v hl.gaps.1 hl.gaps.2 hl.params hGu, hline u v hu hl hPu⟩⟩)
    (hr P hP) (fun u hf => ⟨hf, fun hGu hPu => ⟨hG u u.enterHandler rfl rfl rfl hGu, henter u hPu⟩⟩)
    (fun u hf => ⟨hf, fun hGu hPu => ⟨hG u u.leaveHandler rfl rfl rfl hGu, hleave u hPu⟩⟩) ha h hf).2 hGs hPs

theorem bodyOf_off_rely (hfault : ∀ u, gap u = .off t → u.fault = none) (h : bodyOf i who gap data s = .off t)
    (hf : t.fault = none) (hGs : G s) (hPs : P s) : ∃ u, G u ∧ P u ∧ gap u = .off t := by
  obtain ⟨u, hu, hoff⟩ := bodyOf_off (R := fun u v => v.fault = none → u.fault = none ∧ (G u → P u → G v ∧ P v))
    (fun _ hf => ⟨hf, .intro⟩)
    (fun huv hvw hf => by
      obtain ⟨hf, hvw⟩ := hvw hf
      obtain ⟨hf, huv⟩ := huv hf
      exact ⟨hf, fun hGu hPu => (huv hGu hPu).elim hvw⟩)
    hp
    (fun u v hu hl hf => ⟨hl.steady.fault hf, fun hGu hPu =>
      ⟨hG u v hl.gaps.1 hl.gaps.2 hl.params hGu, hline u v hu hl hPu⟩⟩)
    (hr P hP) (fun u hf => ⟨hf, fun hGu hPu => ⟨hG u u.enterHandler rfl rfl rfl hGu, henter u hPu⟩⟩) ha h hf
  obtain ⟨hGu, hPu⟩ := (hu (hfault u hoff)).2 hGs hPs
  exact ⟨u, hGu, hPu, hoff⟩

end

/-! ## RX_DRAIN -/

section
variable {who : Agent} {gap : Gap} {data : List Byte} {s t : State}

/-- The re-arm that has run all its lines, with the states before and after each gap. -/
theorem rearmLines_on {n : Nat} (h : rearmLines n who gap s = .on t) : ∃ u v w, gap (s.setRxOffset 0) = .on u ∧
    gap (u.setRxCapacity u.params.epOut u.params.maxPacket) = .on v ∧ gap v = .on w ∧
      t = (w.eprWrite v.params.epOut (rxStatusWord (v.eprAt v.params.epOut) .valid)).ret who (.value n) := by
  obtain ⟨u, hu, h⟩ := Flow.andThen_eq_on h
  obtain ⟨v, hv, h⟩ := Flow.andThen_eq_on h
  obtain ⟨x, hx, ht⟩ := Flow.andThen_eq_on h
  obtain ⟨w, hw, hx⟩ := Flow.andThen_eq_on hx
  cases hx
  cases ht
  exact ⟨u, v, w, hu, hv, hw, rfl⟩

/-- RX_DRAIN that has run all its lines: it returned 0, it re-armed an empty buffer, it left bytes unread, or it took the last
and re-armed. -/
theorem rxDrainBody_on {k : Half} (h : rxDrainBody k who gap data s = .on t) :
    t = s.ret who (.value 0)
    ∨ (s.rxUnread = 0 ∧ s.params.drainEmptyRearms = true ∧ ∃ u, gap s = .on u ∧ rearmLines 0 who gap u = .on t)
    ∨ ∃ n bytes u v w, n ≠ 0 ∧ n ≤ s.rxUnread ∧ gap s = .on u ∧ gap (u.outData who bytes) = .on v
      ∧ gap (v.setRxOffset (v.rxOffset + n)) = .on w
      ∧ ((w.rxUnread - n ≠ 0 ∧ t = (w.setRxUnread (w.rxUnread - n)).ret who (.value n))
        ∨ (w.rxUnread - n = 0 ∧ ∃ x, gap (w.setRxUnread (w.rxUnread - n)) = .on x ∧ rearmLines n who gap x = .on t)) := by
  unfold rxDrainBody at h
  dsimp only at h
  split at h
  · rename_i hn
    split at h
    · rename_i hre
      obtain ⟨u, hu, h⟩ := Flow.andThen_eq_on h
      exact .inr (.inl ⟨hre.2.2, hre.1, u, hu, hn ▸ h⟩)
    · cases h; exact .inl rfl
  · rename_i hn
    obtain ⟨u, hu, h⟩ := Flow.andThen_eq_on h
    obtain ⟨bytes, -, h⟩ := Flow.orRaise_eq_on h
    obtain ⟨v, hv, h⟩ := Flow.andThen_eq_on h
    obtain ⟨w, hw, h⟩ := Flow.andThen_eq_on h
    refine .inr (.inr ⟨_, bytes, u, v, w, hn, Nat.min_le_right _ _, hu, hv, hw, ?_⟩)
    split at h
    · rename_i hleft
      cases h
      exact .inl ⟨hleft, rfl⟩
    · rename_i hleft
      obtain ⟨x, hx, h⟩ := Flow.andThen_eq_on h
      exact .inr ⟨by simpa using hleft, x, hx, h⟩

end

/-- A predicate that reads the registers, the descriptors and the parameters alone. -/
def ReadsRegisters (X : State → Prop) : Prop :=
  ∀ u v, v.epr = u.epr → v.bdt = u.bdt → v.params = u.params → X u → X v

section
variable {gap : Gap} {G : State → Prop} {M : State → State → Prop} (hr : gap.Rely G M) (hG : ReadsGaps G)
  {data : List Byte} {s t : State}
include hr hG

omit hG in
theorem Gap.Rely.fault {u v : State} (h : gap u = .on v) (hf : v.fault = none) : u.fault = none :=
  (hr (fun _ => True) (fun _ _ _ => id) u v h hf).1

omit hG in
theorem rearmLines_fault {n : Nat} (h : rearmLines n .task gap s = .on t) (hf : t.fault = none) : s.fault = none := by
  obtain ⟨u, v, w, hu, hv, hw, rfl⟩ := rearmLines_on h
  have hfv := hr.fault hw hf
  have hfu := hr.fault hv hfv
  have hfs := hr.fault hu hfu
  exact hfs

/-- The re-arm over what its gaps keep: from `P` to `Q` by line 6, and the write of line 7b on what lines 7a and 7b find. -/
theorem rearmLines_rely {P Q : State → Prop} (hP : ∀ u v, M u v → P u → P v) (hQ : ∀ u v, M u v → Q u → Q v)
    (hroom : ∀ u, P u → Q (u.setRxCapacity u.params.epOut u.params.maxPacket)) {n : Nat}
    (h : rearmLines n .task gap s = .on t) (hf : t.fault = none) (hGs : G s) (hPs : P (s.setRxOffset 0)) :
    ∃ v w, Q v ∧ Q w ∧ gap v = .on w ∧
      t = (w.eprWrite v.params.epOut (rxStatusWord (v.eprAt v.params.epOut) .valid)).ret .task (.value n) := by
  obtain ⟨u, v, w, hu, hv, hw, rfl⟩ := rearmLines_on h
  have hfw : w.fault = none := hf
  have hfv := hr.fault hw hfw
  have hfu := hr.fault hv hfv
  obtain ⟨hGu, hPu⟩ := (hr P hP _ u hu hfu).2 (hG s _ rfl rfl rfl hGs) hPs
  obtain ⟨hGv, hQv⟩ := (hr Q hQ _ v hv hfv).2 (hG u _ rfl rfl rfl hGu) (hroom u hPu)
  exact ⟨v, w, hQv, ((hr Q hQ v w hw hfw).2 hGv hQv).2, hw, rfl⟩

/-- RX_DRAIN over what its gaps keep: while bytes are unread or taken nothing touches the counters. -/
theorem rxDrainBody_rely {X : State → Prop} (hX : ReadsRegisters X)
    (hM : ∀ u v, M u v → u.rxUnread ≠ 0 ∨ u.rxOffset ≠ 0 → X u → X v ∧ v.rxUnread = u.rxUnread ∧ v.rxOffset = u.rxOffset)
    {k : Half} (h : rxDrainBody k .task gap data s = .on t) (hf : t.fault = none) (hGs : G s)
    (hXs : s.rxUnread ≠ 0 → X s) :
    t = s.ret .task (.value 0)
    ∨ (s.rxUnread = 0 ∧ s.params.drainEmptyRearms = true ∧ ∃ u, gap s = .on u ∧ rearmLines 0 .task gap u = .on t)
    ∨ s.rxUnread ≠ 0 ∧ ((∃ w n, X w ∧ w.rxUnread ≠ 0 ∧ w.rxOffset + w.rxUnread = s.rxOffset + s.rxUnread
          ∧ t = w.ret .task (.value n))
        ∨ ∃ x n, G x ∧ X x ∧ x.rxUnread = 0 ∧ rearmLines n .task gap x = .on t) := by
  obtain h | h | ⟨n, bytes, u, v, w, hn, hle, hu, hv, hw, hlast⟩ := rxDrainBody_on h
  · exact .inl h
  · exact .inr (.inl h)
  refine .inr (.inr ⟨by omega, ?_⟩)
  have key (a b : Nat) (hab : a ≠ 0 ∨ b ≠ 0) := hr (fun u => X u ∧ u.rxUnread = a ∧ u.rxOffset = b)
    fun u v huv ⟨hXu, ha, hb⟩ => by
      obtain ⟨hXv, ha', hb'⟩ := hM u v huv (by omega) hXu
      exact ⟨hXv, ha'.trans ha, hb'.trans hb⟩
  have hfw : w.fault = none := by
    obtain ⟨-, rfl⟩ | ⟨-, x, hx, hre⟩ := hlast
    · simpa using hf
    · simpa using hr.fault hx (rearmLines_fault hr hre hf)
  have hfv : v.fault = none := by simpa using hr.fault hw hfw
  have hunread : s.rxUnread ≠ 0 := by omega
  obtain ⟨hGu, hXu, hau, hbu⟩ := (key s.rxUnread s.rxOffset (.inl hunread) s u hu (by simpa using hr.fault hv hfv)).2 hGs
    ⟨hXs hunread, rfl, rfl⟩
  obtain ⟨hGv, hXv, hav, hbv⟩ := (key s.rxUnread s.rxOffset (.inl hunread) _ v hv hfv).2
    (hG u _ (by simp) (by simp) (by simp) hGu)
    ⟨hX u _ (by simp) (by simp) (by simp) hXu, by simpa using hau, by simpa using hbu⟩
  obtain ⟨hGw, hXw, haw, hbw⟩ := (key s.rxUnread (s.rxOffset + n) (.inl hunread) _ w hw hfw).2 (hG v _ rfl rfl rfl hGv)
    ⟨hX v _ rfl rfl rfl hXv, hav, congrArg (· + n) hbv⟩
  obtain ⟨hleft, rfl⟩ | ⟨hz, x, hx, hre⟩ := hlast
  · refine .inl ⟨w.setRxUnread (w.rxUnread - n), n, hX w _ rfl rfl rfl hXw, hleft, ?_, rfl⟩
    rw [State.setRxUnread_rxOffset, State.setRxUnread_rxUnread]
    omega
  · obtain ⟨hGx, hXx, hax, -⟩ := (key 0 (s.rxOffset + n) (.inr (by omega)) _ x hx (rearmLines_fault hr hre hf)).2
      (hG w _ rfl rfl rfl hGw) ⟨hX w _ rfl rfl rfl hXw, hz, hbw⟩
    exact .inr ⟨x, n, hGx, hXx, hax, hre⟩

end

end Sys2Proof.Machine

/-! What RX_DRAIN and TX_SUBMIT do to the channel invariants, with whatever falls between their lines. -/

namespace Sys2Proof.Machine

/-! ## RX_DRAIN -/

theorem readsRegisters_packetFits : ReadsRegisters State.RxPacketFits := by
  intro u v he hb hp hu
  simpa only [State.RxPacketFits, State.eprAt, State.bdtAt, he, hb, hp] using hu

theorem readsRegisters_outStat (P : EpStatus → Prop) : ReadsRegisters fun u => P u.outStat := by
  intro u v he _ hp hu
  simpa only [State.outStat, State.eprAt, he, hp] using hu

theorem readsRegisters_outFlag (P : Bool → Prop) : ReadsRegisters fun u => P u.outFlag := by
  intro u v he _ hp hu
  simpa only [State.outFlag, State.eprAt, he, hp] using hu

theorem readsRegisters_params (p : Params) : ReadsRegisters fun u => u.params = p := fun _ _ _ _ hp hu => hp.trans hu

theorem ReadsRegisters.and {X Y : State → Prop} (hX : ReadsRegisters X) (hY : ReadsRegisters Y) :
    ReadsRegisters fun u => X u ∧ Y u := fun u v he hb hp hu => ⟨hX u v he hb hp hu.1, hY u v he hb hp hu.2⟩

theorem SameRx.good {raw : Bool} {s t : State} (h : SameRx s t) (hs : RxGood raw s) : RxGood raw t :=
  (RxMove.quiet (.inl h)).good hs

/-- A capacity of no more than MAX_PACKET may be armed. -/
theorem RxStatusWritten.good {raw : Bool} {s t : State} (h : RxStatusWritten s t) (hroom : s.outRoom ≤ s.params.maxPacket)
    (hs : RxGood raw s) : RxGood raw t := by
  refine ⟨?_, fun hu => h.offset.trans (hs.empty (h.unread.symm.trans hu)), fun hraw => ⟨fun _ => ?_, fun hf => ?_⟩⟩
  · rw [h.offset, h.unread, h.params]; exact hs.bound
  · exact h.room.trans_le (h.params ▸ hroom)
  · exact h.count.trans_le (h.params ▸ (hs.fits hraw).2 (h.flag.symm.trans hf))

/-- Line 6 of RX_DRAIN: the capacity becomes MAX_PACKET, as far as ten bits hold it. -/
theorem State.outRoom_setRxCapacity (s : State) (n : Nat) : (s.setRxCapacity s.params.epOut n).outRoom ≤ n := by
  simpa [State.outRoom, State.setRxCapacity] using Nat.mod_le n 1024

theorem RxGood.setRxCapacity {raw : Bool} {s : State} (hs : RxGood raw s) :
    RxGood raw (s.setRxCapacity s.params.epOut s.params.maxPacket) := by
  refine ⟨hs.bound, hs.empty, fun hraw => ⟨fun _ => s.outRoom_setRxCapacity s.params.maxPacket, fun hf => ?_⟩⟩
  simpa [State.setRxCapacity] using (hs.fits hraw).2 hf

/-- RX_DRAIN keeps the bounds of R55, whatever moves fall between its lines. -/
theorem rxDrainBody_good {data : List Byte} {s t : State} {k : Half} {raw : Bool}
    (h : rxDrainBody k .task taskGap data s = .on t) (hf : t.fault = none) (hGs : s.GapsAllowed raw) (hs : RxGood raw s) :
    RxGood raw t := by
  have hr := taskGap_rely raw
  have hG := State.readsGaps_gapsAllowed raw
  have hgood u v (huv : TaskMove raw u v) : RxGood raw u → RxGood raw v := huv.rx.good
  have hrearm {n : Nat} {u : State} (h : rearmLines n .task taskGap u = .on t) (hGu : u.GapsAllowed raw)
      (hu : RxGood raw (u.setRxOffset 0)) : RxGood raw t := by
    obtain ⟨v, w, -, ⟨hw, hroom⟩, hvw, rfl⟩ := rearmLines_rely hr hG (P := RxGood raw)
      (Q := fun w => RxGood raw w ∧ w.outRoom ≤ w.params.maxPacket) hgood
      (fun u v huv ⟨hu, hroom⟩ => ⟨hgood u v huv hu, by rw [huv.params, huv.rx.room]; exact hroom⟩)
      (fun u hu => ⟨hu.setRxCapacity, u.outRoom_setRxCapacity _⟩) h hf hGu hu
    exact (Untouched.ret _ .task _).sameRx.good
      ((rxStatusWrite_written (gapOf_keepsParams .task v w hvw) .valid).good hroom hw)
  obtain rfl | ⟨-, -, u, hu, h⟩ | ⟨-, ⟨w, n, ⟨hwp, hfits⟩, hne, hsum, rfl⟩ | ⟨x, n, hGx, ⟨hxp, hfits⟩, hz, h⟩⟩ :=
    rxDrainBody_rely hr hG (X := fun u => u.params = s.params ∧ (raw = false → u.RxPacketFits))
      ((readsRegisters_params s.params).and fun u v he hb hp hu hraw => readsRegisters_packetFits u v he hb hp (hu hraw))
      (fun u v huv hne ⟨hpu, hfits⟩ => ⟨⟨huv.params.trans hpu,
        fun hraw => by subst hraw; exact huv.rx.packetFits (hfits rfl)⟩, huv.rx.counters hne⟩)
      h hf hGs fun _ => ⟨rfl, hs.fits⟩
  · exact (Untouched.ret _ .task _).sameRx.good hs
  · obtain ⟨hGu, hu⟩ := (hr _ hgood s u hu (rearmLines_fault hr h hf)).2 hGs hs
    have hle : u.rxUnread ≤ rxBound u.params raw := le_of_add_le_right hu.bound
    exact hrearm h hGu ⟨by simpa using hle, fun _ => rfl, hu.fits⟩
  · refine (Untouched.ret _ .task _).sameRx.good ⟨?_, fun hz => absurd hz hne, hfits⟩
    rw [hsum, hwp]; exact hs.bound
  · exact hrearm h hGx ⟨by simp [hz], fun _ => rfl, hfits⟩

/-- An empty channel with no packet waiting. -/
theorem State.RxOrderly.of_empty {s : State} (hu : s.rxUnread = 0) (hflag : s.outFlag = false) : s.RxOrderly :=
  ⟨fun h => absurd hu (by omega), fun _ => ⟨hu, hflag⟩, fun _ => hu⟩

/-- A channel at rest. -/
theorem State.RxOrderly.of_nak {s : State} (hstat : s.outStat = .nak) (hflag : s.outFlag = false) : s.RxOrderly :=
  ⟨fun _ => hstat, fun hv => absurd (hstat.symm.trans hv) (by decide), fun hf => absurd (hf.symm.trans hflag) (by decide)⟩

/-- What a re-arm keeps of the registers and the counters but for STAT_RX and the offset. -/
theorem rearmLines_keeps {gap : Gap} {G : State → Prop} {M : State → State → Prop} (hr : gap.Rely G M) (hG : ReadsGaps G)
    (hp : Gap.KeepsParams gap) {P : State → Prop} (hP : ∀ u v, M u v → P u → P v)
    (hcap : ∀ u n, P u → P (u.setRxCapacity u.params.epOut n)) {n : Nat} {s t : State}
    (h : rearmLines n .task gap s = .on t) (hf : t.fault = none) (hGs : G s) (hs : P (s.setRxOffset 0)) :
    ∃ w, P w ∧ t.rxUnread = w.rxUnread ∧ t.outFlag = w.outFlag := by
  obtain ⟨v, w, -, hw, hvw, rfl⟩ := rearmLines_rely hr hG hP hP (fun u => hcap u _) h hf hGs hs
  have hret := (Untouched.ret (w.eprWrite v.params.epOut (rxStatusWord (v.eprAt v.params.epOut) .valid)) .task
    (.value n)).sameRx
  have hwrite := rxStatusWrite_written (hp v w hvw) .valid
  exact ⟨w, hw, hret.unread.trans hwrite.unread, hret.flag.trans hwrite.flag⟩

/-- Nothing at all is still to fall between TASK's lines. -/
def State.GapsEmpty (s : State) : Prop := ∀ g ∈ s.taskGaps, g = []

theorem State.readsGaps_gapsEmpty : ReadsGaps State.GapsEmpty := by
  intro u v htg _ _ hu
  rw [State.GapsEmpty, htg]; exact hu

theorem taskGap_rely_empty : Gap.Rely taskGap State.GapsEmpty SameRx := by
  intro P hP u v h hf
  refine ⟨(taskGap_rely true).fault h hf, fun hG hPu => ?_⟩
  unfold taskGap at h
  cases hg : u.taskGaps with
  | nil => rw [hg] at h; cases h; exact ⟨hG, hPu⟩
  | cons g rest =>
    rw [hg] at h
    obtain rfl : g = [] := hG g (hg ▸ List.mem_cons_self ..)
    cases h
    exact ⟨fun g' hg' => hG g' (hg ▸ List.mem_cons_of_mem _ hg'), hP _ _ (.setGaps u rest _) hPu⟩

section
variable {data : List Byte} {s t : State} {k : Half} (h : rxDrainBody k .task taskGap data s = .on t)
  (hf : t.fault = none)
include h hf

/-- RX_DRAIN takes bytes from a channel at rest, and arms it when it is empty (41_rx_channel.md R153). -/
theorem rxDrainBody_orderly (hGs : s.GapsAllowed false) (hs : s.RxOrderly)
    (hsafe : s.rxUnread = 0 → s.params.drainEmptyRearms = true → s.outFlag = false ∧ s.GapsEmpty) : t.RxOrderly := by
  obtain ⟨hhand, harmed, hwaits⟩ := id hs
  have hr := taskGap_rely false
  have hG := State.readsGaps_gapsAllowed false
  have hsame {u v : State} (huv : TaskMove false u v) (hu : u.outStat = .nak ∧ u.outFlag = false) : SameRx u v :=
    huv.rx.same ⟨by rw [hu.1]; decide, hu.2⟩
  obtain rfl | ⟨hz, hre, u, hu, h⟩ | ⟨-, ⟨w, n, ⟨hstat, hflag⟩, -, -, rfl⟩ | ⟨x, n, hGx, hx, hxz, h⟩⟩ :=
    rxDrainBody_rely hr hG (X := fun u => u.outStat = .nak ∧ u.outFlag = false)
      ((readsRegisters_outStat (· = .nak)).and (readsRegisters_outFlag (· = false)))
      (fun u v huv _ hu => ⟨⟨(hsame huv hu).stat.trans hu.1, (hsame huv hu).flag.trans hu.2⟩, (hsame huv hu).unread,
        (hsame huv hu).offset⟩) h hf hGs
      fun hz => ⟨hhand (Nat.pos_of_ne_zero hz), by simpa using fun hflag => hz (hwaits hflag)⟩
  · exact (Untouched.ret s .task _).sameRx.orderly hs
  · obtain ⟨hflag, hempty⟩ := hsafe hz hre
    have hkeeps (u v : State) (huv : SameRx u v) (hu : u.outFlag = false ∧ u.rxUnread = 0) :
        v.outFlag = false ∧ v.rxUnread = 0 := ⟨huv.flag.trans hu.1, huv.unread.trans hu.2⟩
    obtain ⟨hGu, hPu⟩ := (taskGap_rely_empty _ hkeeps s u hu (rearmLines_fault hr h hf)).2 hempty ⟨hflag, hz⟩
    obtain ⟨w, ⟨hflag, hwz⟩, hu, hfl⟩ := rearmLines_keeps taskGap_rely_empty State.readsGaps_gapsEmpty
      (gapOf_keepsParams .task) hkeeps (fun _ _ => id) h hf hGu hPu
    exact .of_empty (hu.trans hwz) (hfl.trans hflag)
  · exact (Untouched.ret w .task _).sameRx.orderly (.of_nak hstat hflag)
  · obtain ⟨w, ⟨⟨-, hflag⟩, hwz⟩, hu, hfl⟩ := rearmLines_keeps hr hG (gapOf_keepsParams .task)
      (P := fun u => (u.outStat = .nak ∧ u.outFlag = false) ∧ u.rxUnread = 0)
      (fun u v huv ⟨hu, hz⟩ => ⟨⟨(hsame huv hu).stat.trans hu.1, (hsame huv hu).flag.trans hu.2⟩,
        (hsame huv hu).unread.trans hz⟩) (fun _ _ => id) h hf hGx ⟨hx, hxz⟩
    exact .of_empty (hu.trans hwz) (hfl.trans hflag)

/-- RX_DRAIN with no command of IRQ between its lines leaves bytes unread at an endpoint that answers NAK alone. -/
theorem rxDrainBody_handshake (hGs : s.GapsQuiet) (hs : s.RxHandshake) : t.RxHandshake := by
  have hr := taskGap_rely_quiet
  have hG := State.readsGaps_gapsQuiet
  have hsame {u v : State} (huv : RxQuiet u v) (hu : u.outStat = .nak) : SameRx u v := huv.same (by rw [hu]; decide)
  have hrearm {n : Nat} {u : State} (h : rearmLines n .task taskGap u = .on t) (hGu : u.GapsQuiet)
      (hu : u.rxUnread = 0) : t.RxHandshake := by
    obtain ⟨w, hwz, hut, -⟩ := rearmLines_keeps hr hG (gapOf_keepsParams .task) (P := fun u => u.rxUnread = 0)
      (fun u v huv hz => huv.unread.trans hz) (fun _ _ => id) h hf hGu hu
    exact fun hpos => absurd (hut.trans hwz) (by omega)
  obtain rfl | ⟨hz, -, u, hu, h⟩ | ⟨-, ⟨w, n, hstat, -, -, rfl⟩ | ⟨x, n, hGx, -, hxz, h⟩⟩ :=
    rxDrainBody_rely hr hG (X := fun u => u.outStat = .nak) (readsRegisters_outStat (· = .nak))
      (fun u v huv _ hu => ⟨(hsame huv hu).stat.trans hu, (hsame huv hu).unread, (hsame huv hu).offset⟩) h hf hGs
      fun hz => hs (Nat.pos_of_ne_zero hz)
  · exact RxQuiet.handshake (.inl (Untouched.ret s .task _).sameRx) hs
  · obtain ⟨hGu, hzu⟩ := (hr (fun u => u.rxUnread = 0) (fun u v huv hz => huv.unread.trans hz) s u hu
      (rearmLines_fault hr h hf)).2 hGs hz
    exact hrearm h hGu hzu
  · exact fun _ => (Untouched.ret w .task (.value n)).sameRx.stat.trans hstat
  · exact hrearm h hGx hxz

end

end Sys2Proof.Machine

/-! What TX_SUBMIT does to the transmit channel, with whatever falls between its lines (42_tx_channel.md R170, R173). -/

namespace Sys2Proof.Machine

section
variable {gap : Gap} {data : List Byte} {s t : State} {len : Half}

/-- TX_SUBMIT that has run all its lines: it returned 0, or it staged, counted and armed a packet. -/
theorem txSubmitBody_on {who : Agent} (h : txSubmitBody len who gap data s = .on t) :
    t = s.ret who (.value 0)
    ∨ s.txPending = 0 ∧ ∃ n m a b c d e, n ≠ 0 ∧ gap s = .on a ∧ gap (a.setPma m) = .on b
      ∧ gap (b.setTxCount b.params.epIn n) = .on c ∧ gap (c.setTxPending n) = .on d ∧ gap d = .on e
      ∧ t = (e.eprWrite d.params.epIn (txStatusWord (d.eprAt d.params.epIn) .valid)).ret who (.value n) := by
  unfold txSubmitBody at h
  dsimp only at h
  split at h
  · cases h; exact .inl rfl
  · rename_i hgo
    obtain ⟨a, ha, h⟩ := Flow.andThen_eq_on h
    obtain ⟨u, hu, h⟩ := Flow.orRaise_eq_on h
    obtain ⟨-, rfl⟩ := State.writePma_ok hu
    obtain ⟨b, hb, h⟩ := Flow.andThen_eq_on h
    obtain ⟨c, hc, h⟩ := Flow.andThen_eq_on h
    obtain ⟨d, hd, h⟩ := Flow.andThen_eq_on h
    obtain ⟨w, hw, h⟩ := Flow.andThen_eq_on h
    obtain ⟨e, he, hw⟩ := Flow.andThen_eq_on hw
    cases hw
    cases h
    exact .inr ⟨by omega, _, _, a, b, c, d, e, by omega, ha, hb, hc, hd, he, rfl⟩

theorem SameTx.orderly (h : SameTx s t) (hs : s.TxOrderly) : t.TxOrderly :=
  TxMove.orderly (.quiet (.inl h)) hs

/-- An idle transmit channel with nothing in flight takes the packet that is staged, counted and armed. -/
theorem txSubmitBody_orderly (h : txSubmitBody len .task taskGap data s = .on t) (hf : t.fault = none)
    (hGs : s.GapsAllowed false) (hs : s.TxOrderly) : t.TxOrderly := by
  obtain rfl | ⟨hz, n, m, a, b, c, d, e, hn, ha, hb, hc, hd, he, rfl⟩ := txSubmitBody_on h
  · exact (Untouched.ret s .task _).sameTx.orderly hs
  obtain ⟨hflight, -⟩ := hs
  have hidle : ¬ (s.inStat = .valid ∨ s.inFlag = true) := fun h => absurd (hflight.mpr h) (by omega)
  have hG := State.readsGaps_gapsAllowed false
  have hr := taskGap_rely false
  have key (k : Nat) := hr (fun u => u.inStat = s.inStat ∧ u.inFlag = false ∧ u.txPending = k)
    fun u v huv ⟨hstat, hflag, hk⟩ =>
      have hsame := huv.tx.same ⟨by rw [hstat]; exact fun h => hidle (.inl h), hflag⟩
      ⟨hsame.stat.trans hstat, hsame.flag.trans hflag, hsame.pending.trans hk⟩
  have hfd := hr.fault he hf
  have hfc := hr.fault hd hfd
  have hfb := hr.fault hc hfc
  have hfa := hr.fault hb hfb
  have hflag : s.inFlag = false := by simpa using fun h => hidle (.inr h)
  obtain ⟨hGa, hPa⟩ := (key 0 s a ha hfa).2 hGs ⟨rfl, hflag, hz⟩
  obtain ⟨hGb, hPb⟩ := (key 0 _ b hb hfb).2 (hG a _ rfl rfl rfl hGa) hPa
  obtain ⟨hGc, hPc⟩ := (key 0 _ c hc hfc).2 (hG b _ rfl rfl rfl hGb) hPb
  obtain ⟨hGd, hPd⟩ := (key n _ d hd hfd).2 (hG c _ rfl rfl rfl hGc) ⟨hPc.1, hPc.2.1, rfl⟩
  obtain ⟨-, hstat, hflag, hpend⟩ := (key n d e he hf).2 hGd hPd
  have hp := gapOf_keepsParams .task d e he
  have hvalid := txStatusWrite_stat hp .valid (hstat.trans hPd.1.symm)
  have hdown := (txStatusWrite_flag hp .valid).trans hflag
  refine (Untouched.ret _ .task _).sameTx.orderly ⟨⟨fun _ => .inl hvalid, fun _ => ?_⟩, fun ⟨_, hup⟩ => ?_⟩
  · exact (Nat.pos_of_ne_zero hn).trans_eq hpend.symm
  · exact absurd (hup.symm.trans hdown) (by decide)

end

end Sys2Proof.Machine

/-! Whole commands of TASK and the channel invariants, and what R56 keeps over a command of IRQ (10_state.md R54 to R58). -/

namespace Sys2Proof.Machine

/-! ## Whole commands of TASK -/

theorem Line.txBound {who : Agent} {i : Instr} {s t : State} (h : Line who i s t) (hs : s.TxBound) : t.TxBound := by
  cases h with
  | port p => simpa [State.TxBound] using hs
  | txPending n h hn => exact hn
  | _ => exact hs

section
variable {i : Instr} {data : List Byte} {s t : State} (ha : admission s.params .task data i = none)
include ha

/-- TASK's only command of the receive channel, under CLEAN, is RX_DRAIN. -/
theorem taskBody_rxSide {raw : Bool} (hc : CleanInstr raw s.params i) (hi : RxSide s.params i) : ∃ k, i = .rxDrain k := by
  obtain ⟨-, -, htask, -⟩ := (State.admits_iff (s := { s with issuer := .task, inData := data })).mp ha
  obtain ⟨-, rfl⟩ | hk | ⟨n, rfl⟩ | rfl := rxSide_cases hc hi
  · cases htask
  · exact hk
  · cases htask
  · cases htask

/-- And of the transmit channel TX_SUBMIT. -/
theorem taskBody_txSide {raw : Bool} (hc : CleanInstr raw s.params i) (hi : TxSide s.params i) : ∃ k, i = .txSubmit k := by
  obtain ⟨-, -, htask, -⟩ := (State.admits_iff (s := { s with issuer := .task, inData := data })).mp ha
  obtain ⟨-, rfl⟩ | hk | rfl | rfl := txSide_cases hc hi
  · cases htask
  · exact hk
  · cases htask
  · cases htask

variable (h : bodyOf i .task taskGap data s = .on t) (hf : t.fault = none)
include h hf

/-- A command of TASK that has no line for the receive channel keeps of it what moves keep. -/
theorem taskBody_keepsRx {G : State → Prop} {M : State → State → Prop} (hr : Gap.Rely taskGap G M) (hG : ReadsGaps G)
    (hGs : G s) {P : State → Prop} (hM : ∀ u v, M u v → P u → P v) (hsame : ∀ u v, SameRx u v → P u → P v)
    (hi : ¬ RxSide s.params i) (hs : P s) : P t :=
  (bodyOf_rely hr hG (gapOf_keepsParams .task) hM ha (fun _ _ hu hl => hsame _ _ (hl.sameRx (hu ▸ hi)))
    (fun u => hsame _ _ (.enterHandler u)) (fun u => hsame _ _ (.leaveHandler u)) h hf hGs hs).2

theorem taskBody_handshake {raw : Bool} (hc : CleanInstr raw s.params i) (hGs : s.GapsQuiet) (hs : s.RxHandshake) :
    t.RxHandshake := by
  by_cases hi : RxSide s.params i
  · obtain ⟨k, rfl⟩ := taskBody_rxSide ha hc hi
    exact rxDrainBody_handshake (data := data) (k := k) h hf hGs hs
  · exact taskBody_keepsRx ha h hf taskGap_rely_quiet State.readsGaps_gapsQuiet hGs (fun _ _ => RxQuiet.handshake)
      (fun _ _ hsame => RxQuiet.handshake (.inl hsame)) hi hs

variable {raw : Bool} (hGs : s.GapsAllowed raw)
include hGs

theorem taskBody_txBound (hs : s.TxBound) : t.TxBound :=
  (bodyOf_rely (taskGap_rely raw) (State.readsGaps_gapsAllowed raw) (gapOf_keepsParams .task)
    (fun _ _ hm => hm.tx.bound) ha (fun _ _ _ hl => hl.txBound) (fun _ => id) (fun _ => id) h hf hGs hs).2

/-- CONFIGURE stays past: a RESET between the lines would have discarded the command. -/
theorem taskBody_fresh (hs : s.fresh = false) : t.fresh = false :=
  (bodyOf_rely (taskGap_rely raw) (State.readsGaps_gapsAllowed raw) (gapOf_keepsParams .task)
    (P := fun u => u.fresh = false) (fun _ _ hm hu => hm.fresh.trans hu) ha (fun _ _ _ hl hu => hl.steady.fresh.trans hu)
    (fun _ => id) (fun _ => id) h hf hGs hs).2

variable (hc : CleanInstr raw s.params i)
include hc

theorem taskBody_good (hs : RxGood raw s) : RxGood raw t := by
  by_cases hi : RxSide s.params i
  · obtain ⟨k, rfl⟩ := taskBody_rxSide ha hc hi
    exact rxDrainBody_good (data := data) (k := k) h hf hGs hs
  · exact taskBody_keepsRx ha h hf (taskGap_rely raw) (State.readsGaps_gapsAllowed raw) hGs (fun _ _ hm => hm.rx.good)
      (fun _ _ hsame => hsame.good) hi hs

end

section
variable {i : Instr} {data : List Byte} {s t : State} (ha : admission s.params .task data i = none)
  (h : bodyOf i .task taskGap data s = .on t) (hf : t.fault = none) (hGs : s.GapsAllowed false)
  (hc : CleanInstr false s.params i)
include ha h hf hGs hc

theorem taskBody_rxOrderly (hnak : s.params.rxAutoNak = true)
    (hsafe : (∃ k, i = .rxDrain k) → s.rxUnread = 0 → s.params.drainEmptyRearms = true → s.outFlag = false ∧ s.GapsEmpty)
    (hs : s.RxOrderly) : t.RxOrderly := by
  by_cases hi : RxSide s.params i
  · obtain ⟨k, rfl⟩ := taskBody_rxSide ha hc hi
    exact rxDrainBody_orderly (data := data) (k := k) h hf hGs hs (hsafe ⟨k, rfl⟩)
  · exact (taskBody_keepsRx ha h hf (taskGap_rely false) (State.readsGaps_gapsAllowed false) hGs
      (P := fun u => u.params.rxAutoNak = true ∧ u.RxOrderly)
      (fun _ _ hm ⟨hn, hu⟩ => ⟨by rw [hm.params]; exact hn, hm.rx.orderly hn hu⟩)
      (fun _ _ hsame ⟨hn, hu⟩ => ⟨by rw [hsame.params]; exact hn, hsame.orderly hu⟩) hi ⟨hnak, hs⟩).2

theorem taskBody_txOrderly (hs : s.TxOrderly) : t.TxOrderly := by
  by_cases hi : TxSide s.params i
  · obtain ⟨k, rfl⟩ := taskBody_txSide ha hc hi
    exact txSubmitBody_orderly (len := k) h hf hGs hs
  · exact (bodyOf_rely (taskGap_rely false) (State.readsGaps_gapsAllowed false) (gapOf_keepsParams .task)
      (fun _ _ hm => hm.tx.orderly) ha (fun _ _ hu hl => (hl.sameTx (hu ▸ hi)).orderly)
      (fun u => (SameTx.enterHandler u).orderly) (fun u => (SameTx.leaveHandler u).orderly) h hf hGs hs).2

end

/-- A command of TASK that raised no fault of its own and has not run all its lines was discarded by a RESET. -/
theorem taskBody_off {raw : Bool} {i : Instr} {data : List Byte} {s t : State}
    (ha : admission s.params .task data i = none) (h : bodyOf i .task taskGap data s = .off t) (hf : t.fault = none)
    (hGs : s.GapsAllowed raw) : t.Blank := by
  obtain ⟨u, hGu, -, hoff⟩ := bodyOf_off_rely (taskGap_rely raw) (State.readsGaps_gapsAllowed raw) (gapOf_keepsParams .task)
    (P := fun _ => True) (fun _ _ _ => id) ha (fun _ _ _ _ => id) (fun _ => id)
    (fun u hu => Flow.Within.fault (taskGap_elementary u) (.inr hu) hf) h hf hGs trivial
  obtain ⟨tg, -, hm⟩ := taskGap_movesFrom hGu
  rw [hoff] at hm
  have hw : Wiped (u.setGaps tg u.irqGaps) t := hm hf
  exact hw.blank

end Sys2Proof.Machine

/-! What R56 keeps over a command of IRQ, and the points between two lines of a command that IRQ issues in its own turn
(10_state.md R54, R56; log 28). -/

namespace Sys2Proof.Machine

/-! ## R56 over a command of IRQ -/

section
variable {data : List Byte} {s t : State}

/-- With nothing between its lines, or where an armed endpoint stays armed, RX_COMPLETE leaves STAT_RX NAK. -/
theorem rxCompleteLines_nak (h : rxCompleteLines .irq irqGap s = .on t) (hf : t.fault = none) :
    s.fault = none ∧ (s.GapsCalm → t.GapsCalm ∧ t.outStat = .nak) := by
  obtain ⟨-, a, b, c, m, d, ha, hb, hc, -, hd, rfl⟩ := rxCompleteLines_on h
  have hr := irqGap_rely_calm
  have hG := State.readsGaps_gapsCalm
  have key (st : EpStatus) := hr (fun u => u.outStat = st) fun u v huv hu => huv.2.trans hu
  have hfc := hr.fault hd hf
  have hfb := hr.fault hc hfc
  have hfa := hr.fault hb hfb
  refine ⟨hr.fault ha hfa, fun hGs => ?_⟩
  obtain ⟨hGa, -⟩ := (key _ s a ha hfa).2 hGs rfl
  obtain ⟨hGb, hstat⟩ := (key _ a b hb hfb).2 hGa rfl
  obtain ⟨hGc, hnak⟩ := (key .nak _ c hc hfc).2 (hG b _ rfl rfl rfl hGb)
    (rxStatusWrite_stat (gapOf_keepsParams .irq a b hb) .nak hstat)
  obtain ⟨hGd, hnak⟩ := (key .nak _ d hd hf).2 (hG c _ rfl rfl rfl hGc) hnak
  exact ⟨hG d _ rfl rfl rfl hGd, hnak⟩

theorem intDispatch_nak {ep : EpNum} (hep : ep = s.params.epOut) (h : intDispatchBody ep .rx .irq irqGap data s = .on t)
    (hf : t.fault = none) (hGs : s.GapsCalm) : t.outStat = .nak := by
  obtain ⟨-, -, u, v, w, hu, hv, hw, rfl⟩ := intDispatchBody_on h
  obtain ⟨x, hx, hv⟩ := Flow.andThen_eq_on hv
  have hp := gapOf_keepsParams .irq
  have hep' : ep = x.params.epOut := by rw [hp _ x hx, State.eprWrite_params, hp _ u hu]; exact hep
  rw [callbackLines_rx_epOut hep'] at hv
  have hr := irqGap_rely_calm
  have hG := State.readsGaps_gapsCalm
  have hfw : w.fault = none := by simpa using hf
  have hfv := hr.fault hw hfw
  obtain ⟨hfx, hnak⟩ := rxCompleteLines_nak hv hfv
  have hfu := hr.fault hx hfx
  have any := hr (fun _ => True) fun _ _ _ => id
  obtain ⟨hGu, -⟩ := (any _ u hu hfu).2 (hG s _ rfl rfl rfl hGs) trivial
  obtain ⟨hGx, -⟩ := (any _ x hx hfx).2 (hG u _ rfl rfl rfl hGu) trivial
  obtain ⟨hGv, hstat⟩ := hnak hGx
  obtain ⟨-, hwstat⟩ := ((hr (fun u => u.outStat = .nak) fun u v huv hu => huv.2.trans hu) v w hw hfw).2 hGv hstat
  exact (Untouched.ret w.leaveHandler .irq .unit).sameRx.stat.trans hwstat

/-- A command of IRQ keeps R56 there. -/
theorem irqBody_handshake {i : Instr} (hc : CleanInstr true s.params i) (ha : admission s.params .irq data i = none)
    (h : bodyOf i .irq irqGap data s = .on t) (hf : t.fault = none) (hGs : s.GapsCalm) (hs : s.RxHandshake) :
    t.RxHandshake := by
  obtain ⟨-, -, hirq, -⟩ := (State.admits_iff (s := { s with issuer := .irq, inData := data })).mp ha
  by_cases hi : RxSide s.params i
  · obtain ⟨-, rfl⟩ | ⟨k, rfl⟩ | ⟨n, rfl⟩ | rfl := rxSide_cases hc hi
    · obtain ⟨u, hu, hret⟩ := Flow.andThen_eq_on h
      cases hret
      obtain ⟨-, hnak⟩ := rxCompleteLines_nak hu (by simpa using hf)
      exact fun _ => (Untouched.ret u .irq .unit).sameRx.stat.trans (hnak hGs).2
    · cases hirq
    · cases hirq
    · exact fun _ => intDispatch_nak (data := data) rfl h hf hGs
  · exact RxQuiet.handshake (bodyOf_keepsRx .inl RxQuiet.trans (gapOf_keepsParams .irq)
      (fun _ _ huv => (irqGap_wireMove huv).rx) hi ha h) hs

end

/-! ## A command on the interface -/

/-- Both channels are as they were. -/
structure SameChannels (s t : State) : Prop where
  rx : SameRx s t
  tx : SameTx s t

/-- A command that comes onto the interface touches neither channel. -/
theorem sameChannels_latch (s : State) (rest : List Turn) (n : Nat) (who : Agent) (data : List Byte)
    (tg : List (List Between)) (ig : List (List Quiet)) :
    SameChannels s (State.latch { s with schedule := rest, taskNext := n } who data tg ig) :=
  ⟨⟨rfl, rfl, rfl, rfl, rfl, rfl, rfl⟩, ⟨rfl, rfl, rfl, rfl⟩⟩

/-! ## Points inside IRQ's turn -/

theorem irqGapUpTo_on {u v : State} (h : irqGapUpTo u = .on v) : WireMove u v := by
  unfold irqGapUpTo at h
  split at h
  · cases h
  · rename_i g _
    cases hx : quietMoves g (u.setGaps u.taskGaps []) <;> rw [hx] at h <;> cases h
  · rename_i g rest _ _
    have hq := quietMoves_quietFrom g (u.setGaps u.taskGaps rest)
    rw [h] at hq
    exact (Untouched.setIrqGaps u rest).wireMove.trans hq

/-- The command stands there after WIRE steps, unless a RESET has discarded it. -/
theorem irqGapUpTo_off {u v : State} (h : irqGapUpTo u = .off v) : WireMove u v ∨ v.Blank := by
  have close {g : List Quiet} {rest : List (List Quiet)} {x : Flow} (hx : quietMoves g (u.setGaps u.taskGaps rest) = x)
      (hv : x.Reaches v) : WireMove u v ∨ v.Blank := by
    have hq := quietMoves_quietFrom g (u.setGaps u.taskGaps rest)
    rw [hx] at hq
    obtain rfl | rfl := hv
    · exact .inl ((Untouched.setIrqGaps u rest).wireMove.trans hq)
    · exact .inr (Wiped.blank hq)
  unfold irqGapUpTo at h
  split at h
  · cases h; exact .inl (Untouched.refl u).wireMove
  · rename_i g _
    cases hx : quietMoves g (u.setGaps u.taskGaps []) with
    | on w => rw [hx] at h; cases h; exact close hx (.inl rfl)
    | off w => rw [hx] at h; cases h; exact close hx (.inr rfl)
    | stuck f => rw [hx] at h; cases h
  · exact close h (.inr rfl)

section
variable {s m : State}

theorem Flow.orRaise_eq_off {α : Type} {who : Agent} {x : Except FaultInfo α} {k : α → Flow}
    (h : Flow.orRaise who s x k = .off m) (hf : m.fault = none) : ∃ a, x = .ok a ∧ k a = .off m := by
  cases x with
  | ok a => exact ⟨a, rfl, h⟩
  | error f => cases h; exact absurd hf (s.fault_raise_ne_none who f)

/-- RX_COMPLETE, at a point between two of its lines: it found the buffer empty and has published nothing yet. -/
theorem rxCompleteLines_off {who : Agent} {gap : Gap} (hg : ∀ u v, gap u = .on v → RxQuiet u v)
    (h : rxCompleteLines who gap s = .off m) (hf : m.fault = none) :
    ∃ u, (u.rxUnread = 0 ∧ u.rxOffset = 0) ∧ gap u = .off m := by
  have after {u v : State} (hgap : gap u = .on v) (hu : u.rxUnread = 0 ∧ u.rxOffset = 0) :
      v.rxUnread = 0 ∧ v.rxOffset = 0 := ⟨(hg u v hgap).unread.trans hu.1, (hg u v hgap).offset.trans hu.2⟩
  unfold rxCompleteLines at h
  split at h
  · cases h; exact absurd hf (s.fault_raise_ne_none who _)
  · have hs : s.rxUnread = 0 ∧ s.rxOffset = 0 := by omega
    obtain h | ⟨a, ha, h⟩ := Flow.andThen_eq_off h
    · exact ⟨s, hs, h⟩
    have hsa := after ha hs
    obtain h | ⟨w, hw, h⟩ := Flow.andThen_eq_off h
    · obtain h | ⟨b, -, h⟩ := Flow.andThen_eq_off h
      · exact ⟨a, hsa, h⟩
      · cases h
    obtain ⟨b, hb, hw⟩ := Flow.andThen_eq_on hw
    cases hw
    have hsb := after hb hsa
    obtain h | ⟨c, hc, h⟩ := Flow.andThen_eq_off h
    · exact ⟨b.eprWrite a.params.epOut _, hsb, h⟩
    have hsc := after hc hsb
    split at h
    · cases h; exact absurd hf (c.fault_raise_ne_none who _)
    · obtain ⟨bytes, -, h⟩ := Flow.orRaise_eq_off h hf
      obtain ⟨u, hu, h⟩ := Flow.orRaise_eq_off h hf
      obtain ⟨-, rfl⟩ := State.writeRxBuf_ok hu
      obtain h | ⟨d, -, h⟩ := Flow.andThen_eq_off h
      · exact ⟨c.setRxBuf (c.rxBuf.storeBytes 0 bytes), hsc, h⟩
      · cases h

section
variable {i : Instr} {data : List Byte} (hc : CleanInstr true s.params i) (ha : admission s.params .irq data i = none)
  (h : bodyOf i .irq irqGapUpTo data s = .off m) (hf : m.fault = none) (hidle : m.irqActive = false)
include hc ha h hf hidle

/-- INT_DISPATCH is inside its handler at every point between its lines. -/
theorem irqPoint_dispatch (hi : ∃ ep src, i = .intDispatch ep src) : m.Blank := by
  obtain ⟨ep, src, rfl⟩ := hi
  have hp := irqGapUpTo_elementary.keepsParams
  obtain ⟨u, hu, hoff⟩ := intDispatchBody_off (data := data) hp h hf
  have hactive : u.irqActive = true := Runs.keeps (R := fun u v => v.irqActive = u.irqActive)
    (fun _ => rfl) (fun h h' => h'.trans h) hp (fun _ _ _ hl => hl.steady.irqActive)
    (fun _ _ hg => (irqGapUpTo_on hg).steady.irqActive) hu
  refine (irqGapUpTo_off hoff).resolve_left fun hm => ?_
  exact absurd (hidle.symm.trans (hm.steady.irqActive.trans hactive)) (by decide)

theorem irqPoint_tx : TxQuiet s m ∨ m.Blank := by
  by_cases hi : TxSide s.params i
  · obtain ⟨-, -, hirq, -⟩ := (State.admits_iff (s := { s with issuer := .irq, inData := data })).mp ha
    obtain ⟨-, rfl⟩ | ⟨k, rfl⟩ | rfl | rfl := txSide_cases hc hi
    · cases h
    · cases hirq
    · cases hirq
    · exact .inr (irqPoint_dispatch hc ha h hf hidle ⟨_, _, rfl⟩)
  · obtain ⟨u, hu, hoff⟩ := bodyOf_off (R := TxQuiet) (fun u => .inl (.refl u)) TxQuiet.trans
      irqGapUpTo_elementary.keepsParams (fun _ _ hup hl => .inl (hl.sameTx (hup ▸ hi)))
      (fun _ _ hg => (irqGapUpTo_on hg).tx) (fun u => .inl (.enterHandler u)) ha h hf
    exact (irqGapUpTo_off hoff).imp_left fun hm => hu.trans hm.tx

/-- Of the receive channel WIRE steps at most are seen, or an empty buffer. -/
theorem irqPoint_rx : (RxQuiet s m ∨ m.rxUnread = 0 ∧ m.rxOffset = 0) ∨ m.Blank := by
  by_cases hi : RxSide s.params i
  · obtain ⟨-, -, hirq, -⟩ := (State.admits_iff (s := { s with issuer := .irq, inData := data })).mp ha
    obtain ⟨-, rfl⟩ | ⟨k, rfl⟩ | ⟨n, rfl⟩ | rfl := rxSide_cases hc hi
    · obtain h | ⟨u, -, h⟩ := Flow.andThen_eq_off h
      · obtain ⟨u, ⟨hu, ho⟩, hoff⟩ := rxCompleteLines_off (fun _ _ hg => (irqGapUpTo_on hg).rx) h hf
        exact (irqGapUpTo_off hoff).imp_left fun hm => .inr ⟨hm.rx.unread.trans hu, hm.rx.offset.trans ho⟩
      · cases h
    · cases hirq
    · cases hirq
    · exact .inr (irqPoint_dispatch hc ha h hf hidle ⟨_, _, rfl⟩)
  · obtain ⟨u, hu, hoff⟩ := bodyOf_off (R := RxQuiet) (fun u => .inl (.refl u)) RxQuiet.trans
      irqGapUpTo_elementary.keepsParams (fun _ _ hup hl => .inl (hl.sameRx (hup ▸ hi)))
      (fun _ _ hg => (irqGapUpTo_on hg).rx) (fun u => .inl (.enterHandler u)) ha h hf
    exact (irqGapUpTo_off hoff).imp_left fun hm => .inl (hu.trans hm.rx)

end

/-- What a point inside IRQ's turn shows of the channels. -/
structure PointMove (s m : State) : Prop where
  rx : RxQuiet s m ∨ m.rxUnread = 0 ∧ m.rxOffset = 0
  tx : TxQuiet s m

theorem PointMove.after {u : State} (hrx : RxQuiet s u) (htx : TxQuiet s u) (hm : PointMove u m) : PointMove s m :=
  ⟨hm.rx.imp_left hrx.trans, htx.trans hm.tx⟩

/-- A command of IRQ at a point between two of its lines. -/
theorem runCommand_point {c : Command} (hc : c.Allowed true s.params) (h : runCommand .irq irqGapUpTo c s = .off m)
    (hf : m.fault = none) (hidle : m.irqActive = false) : PointMove s m ∨ m.Blank := by
  obtain ⟨-, ⟨r, -, rfl⟩ | ⟨i, hd, ha, hrun⟩⟩ := runCommand_reaches (.inr h)
  · exact .inl ⟨.inl (Untouched.refuse s .irq r).wireMove.rx, (Untouched.refuse s .irq r).wireMove.tx⟩
  · rw [hrun] at h
    have hc' : CleanInstr true (s.clearPort .irq).params i := by simpa using hc.cleanInstr hd
    have ha' : admission (s.clearPort .irq).params .irq c.data i = none := by simpa using ha
    obtain hrx | hblank := irqPoint_rx hc' ha' h hf hidle
    · have hclear := (Untouched.setPort s .irq Port.empty).wireMove
      exact (irqPoint_tx hc' ha' h hf hidle).imp_left fun htx => PointMove.after hclear.rx hclear.tx ⟨hrx, htx⟩
    · exact .inr hblank

theorem irqTurnPoint_move (hclean : s.NextTurnClean) (h : s.irqTurnPoint = some m) (hf : m.fault = none)
    (hidle : m.irqActive = false) : PointMove s m ∨ m.Blank := by
  unfold State.irqTurnPoint at h
  split at h
  · rename_i c gaps rest hs
    have hallowed : c.Allowed true s.params := ⟨hclean (.irq c gaps) (by rw [hs]; rfl), nofun⟩
    unfold irqPoint at h
    split at h
    · rename_i x hx
      cases h
      have hlatch := sameChannels_latch s rest s.taskNext .irq c.data [] gaps
      exact (runCommand_point (hlatch.rx.params ▸ hallowed) hx hf hidle).imp_left
        (PointMove.after (.inl hlatch.rx) (.inl hlatch.tx))
    · cases h
    · cases h
  · cases h

/-- At every such point, while no handler runs, each of the channel invariants still holds that held before the turn. -/
theorem irqTurnPoint_keeps (hclean : s.NextTurnClean) (h : s.irqTurnPoint = some m) (hf : m.fault = none)
    (hidle : m.irqActive = false) : (s.RxBounds → m.RxBounds) ∧ (s.RxHandshake → m.RxHandshake)
      ∧ (s.TxInFlight → m.TxInFlight) ∧ (s.TxBound → m.TxBound) := by
  obtain ⟨hrx, htx⟩ | hblank := irqTurnPoint_move hclean h hf hidle
  · refine ⟨fun hs => ?_, fun hs => ?_, htx.inFlight, (TxMove.quiet (raw := true) htx).bound⟩
    · obtain hq | ⟨hu, ho⟩ := hrx
      · simpa only [State.RxBounds, hq.unread, hq.offset, hq.params] using hs
      · exact ⟨by omega, fun _ => ho⟩
    · obtain hq | ⟨hu, -⟩ := hrx
      · exact hq.handshake hs
      · exact fun hpos => absurd hu (by omega)
  · obtain ⟨⟨hb, -, hfl, htb, -⟩, hh, -⟩ := hblank.channelInv
    exact ⟨fun _ => hb, fun _ => hh, fun _ => hfl, fun _ => htb⟩

end

end Sys2Proof.Machine

/-! Whole steps and the two channels: what each turn of the schedule comes down to (00_scope.md R10, R18). -/

namespace Sys2Proof.Machine

/-! ## What a turn comes down to -/

theorem SameChannels.trans {s t u : State} (h : SameChannels s t) (h' : SameChannels t u) : SameChannels s u :=
  ⟨h.rx.trans h'.rx, h.tx.trans h'.tx⟩

theorem Untouched.sameChannels {s t : State} (h : Untouched s t) : SameChannels s t := ⟨h.sameRx, h.sameTx⟩

theorem sameChannels_dropGaps (s : State) : SameChannels s s.dropGaps :=
  ⟨.setGaps s [] [], ⟨rfl, rfl, rfl, rfl⟩⟩

theorem Untouched.blank {s t : State} (h : Untouched s t) (hs : s.Blank) : t.Blank := by
  obtain ⟨he, hu, ho, hp, ha⟩ := hs
  exact ⟨fun ep => by rw [State.eprAt, h.epr]; exact he ep, h.unread.trans hu, h.offset.trans ho, h.pending.trans hp,
    h.irqActive.trans ha⟩

/-- PUTC's own lines after its TX_SUBMIT touch neither channel. -/
theorem putcAfter_untouched (s : State) : Untouched s (putcAfter s) := by
  unfold putcAfter
  split
  · exact .setPort s .task _
  · have hnext : Untouched s (s.setTaskNext (s.taskNext + 1)) := { Untouched.refl s with }
    exact hnext.trans (.ret _ .task .unit)
  · exact .refl s

/-- The command `i` of a turn, admitted, has run all its lines from `u` to `v`, and the step from `s` to `t` did no more. -/
structure Ran (who : Agent) (i : Instr) (data : List Byte) (tg : List (List Between)) (ig : List (List Quiet))
    (s u v t : State) : Prop where
  before : SameChannels s u
  fresh : u.fresh = false
  taskGaps : u.taskGaps = tg
  irqGaps : u.irqGaps = ig
  admitted : admission u.params who data i = none
  body : bodyOf i who (gapOf who) data u = .on v
  after : Untouched v.dropGaps t

/-- TASK's next item issues the command `i`: it is a command that its word spells, or a PUTC, whose command is TX_SUBMIT of one
byte (42_tx_channel.md R176). -/
def State.NextIssues (s : State) (i : Instr) : Prop :=
  (∃ c, s.nextItem = some (.cmd c) ∧ decode c.word = .ok i) ∨ (∃ b, s.nextItem = some (.putc b)) ∧ i = .txSubmit 1

/-- What a step comes down to, as far as the channels are concerned. -/
inductive StepShape (s t : State) : Prop where
  | idle (h : t = s)
  | blank (h : t.Blank)
  | configured (rest : List Turn) (fresh : s.fresh = true) (h : t = State.configure { s with schedule := rest })
  | quiet (rx : RxQuiet s t) (tx : TxQuiet s t) (fresh : t.fresh = false)
  | irq (c : Command) (gaps : List (List Quiet)) (turn : .irq c gaps ∈ s.schedule.head?) (i : Instr)
      (word : decode c.word = .ok i) (u v : State) (ran : Ran .irq i c.data [] gaps s u v t)
  | task (gaps : List (List Between)) (turn : .task gaps ∈ s.schedule.head?) (i : Instr) (data : List Byte)
      (item : s.NextIssues i) (u v : State) (ran : Ran .task i data gaps [] s u v t)

/-- A word issued by an agent that may step is run as a command of its own. -/
theorem issueWord_eq_runCommand {who : Agent} {s : State} (hm : s.mayStep who = none) (c : Command)
    (tg : List (List Between)) (ig : List (List Quiet)) :
    issueWord who c tg ig s = (runCommand who (gapOf who) c (s.latch who c.data tg ig)).outcome := by
  have hm' : (s.latch who c.data tg ig).mayStep who = none := by rw [← hm]; cases who <;> rfl
  rw [issueWord, runCommand, hm']
  cases decode c.word with
  | error e => rfl
  | ok i => exact exec_eq_runInstr i _

theorem decode_putcWord : decode putcWord = .ok (.txSubmit 1) := rfl

/-- What a word issued in a turn leads to: it is refused, or its command's lines are run. -/
theorem issueWord_next {who : Agent} {c : Command} {tg : List (List Between)} {ig : List (List Quiet)}
    {rest : List Turn} {n : Nat} {s t : State} (hm : s.mayStep who = none)
    (h : issueWord who c tg ig { s with schedule := rest, taskNext := n } = .next t) :
    ∃ v, t = v.dropGaps ∧ ((SameChannels s v ∧ v.fresh = false) ∨ ∃ i u, decode c.word = .ok i ∧ SameChannels s u
      ∧ u.fresh = false ∧ u.taskGaps = tg ∧ u.irqGaps = ig ∧ admission u.params who c.data i = none
      ∧ (bodyOf i who (gapOf who) c.data u).Reaches v) := by
  have hm' : State.mayStep { s with schedule := rest, taskNext := n } who = none := by rw [← hm]; cases who <;> rfl
  rw [issueWord_eq_runCommand hm'] at h
  obtain ⟨v, hv, rfl⟩ := Flow.outcome_next h
  have hlatch := sameChannels_latch s rest n who c.data tg ig
  refine ⟨v, rfl, ?_⟩
  obtain ⟨-, ⟨r, -, rfl⟩ | ⟨i, hd, ha, hrun⟩⟩ := runCommand_reaches hv
  · have href := Untouched.refuse (State.latch { s with schedule := rest, taskNext := n } who c.data tg ig) who r
    exact .inl ⟨hlatch.trans href.sameChannels, href.fresh⟩
  · have hclear := Untouched.setPort (State.latch { s with schedule := rest, taskNext := n } who c.data tg ig) who Port.empty
    rw [hrun] at hv
    exact .inr ⟨i, _, hd, hlatch.trans hclear.sameChannels, hclear.fresh, hclear.taskGaps, by simp [State.latch],
      by simpa [State.latch] using ha, hv⟩

/-! ## The commands that the premises allow -/

/-- The next turn is one that CLEAN allows, with callbacks by INT_DISPATCH alone unless `raw`. -/
def State.TurnAllowed (raw : Bool) (s : State) : Prop := s.NextTurnClean ∧ (raw = false → s.NextTurnDispatches)

section
variable {raw : Bool} {s : State} (h : s.TurnAllowed raw)
include h

theorem State.TurnAllowed.irq {c : Command} {gaps : List (List Quiet)} (hturn : .irq c gaps ∈ s.schedule.head?) :
    c.Allowed raw s.params := ⟨h.1 _ hturn, fun hraw => h.2 hraw _ hturn⟩

theorem State.TurnAllowed.item {c : Command} {gaps : List (List Between)} (hturn : .task gaps ∈ s.schedule.head?)
    (hitem : s.nextItem = some (.cmd c)) : c.Allowed raw s.params := by
  have key {q : Command → Bool} (hq : s.NextTurnAll q) : q c = true := by
    have := hq _ hturn
    rw [State.turnAll, hitem] at this
    exact (Bool.and_eq_true_iff.mp this).1
  exact ⟨key h.1, fun hraw => key (h.2 hraw)⟩

theorem State.TurnAllowed.gaps {gaps : List (List Between)} {u : State} (hturn : .task gaps ∈ s.schedule.head?)
    (hu : u.taskGaps = gaps) (hp : u.params = s.params) : u.GapsAllowed raw := by
  subst hu
  rw [State.GapsAllowed, hp]
  intro g hg b hb
  cases b with
  | quiet q => trivial
  | irq c ig =>
    have key {q : Command → Bool} (hq : s.NextTurnAll q) : q c = true := by
      have := hq _ hturn
      rw [State.turnAll] at this
      exact List.all_eq_true.mp (List.all_eq_true.mp (Bool.and_eq_true_iff.mp this).2 g hg) _ hb
    exact ⟨key h.1, fun hraw => key (h.2 hraw)⟩

end

section
variable {s t : State} {rest : List Turn} (hf : t.fault = none)
include hf

theorem wireTurn_shape {c : Command} (hm : s.mayStep .wire = none)
    (h : issueWord .wire c [] [] { s with schedule := rest } = .next t) : StepShape s t := by
  obtain ⟨v, rfl, ⟨hv, hfresh⟩ | ⟨i, u, -, hu, hfresh, -, -, ha, hv⟩⟩ := issueWord_next (n := s.taskNext) hm h
  · have ht := hv.trans (sameChannels_dropGaps v)
    exact .quiet (.inl ht.rx) (.inl ht.tx) hfresh
  · have hm := wireBody_wireMove ha hv
    have hd := sameChannels_dropGaps v
    exact .quiet (RxQuiet.trans (.inl hu.rx) (hm.rx.trans (.inl hd.rx)))
      (TxQuiet.trans (.inl hu.tx) (hm.tx.trans (.inl hd.tx))) (hm.steady.fresh.trans hfresh)

theorem irqTurn_shape {c : Command} {gaps : List (List Quiet)} (hm : s.mayStep .irq = none)
    (hturn : .irq c gaps ∈ s.schedule.head?) (h : issueWord .irq c [] gaps { s with schedule := rest } = .next t) :
    StepShape s t := by
  obtain ⟨v, rfl, ⟨hv, hfresh⟩ | ⟨i, u, hd, hu, hfresh, htg, hig, ha, hv⟩⟩ := issueWord_next (n := s.taskNext) hm h
  · have ht := hv.trans (sameChannels_dropGaps v)
    exact .quiet (.inl ht.rx) (.inl ht.tx) hfresh
  · obtain hon | hoff := hv
    · exact .irq c gaps hturn i hd u v ⟨hu, hfresh, htg, hig, ha, hon, .refl _⟩
    · exact .blank (irqBody_off (t := v) ha hoff hf).blank

/-- A word that TASK issues in its turn, and PUTC's lines after it. -/
theorem taskWord_shape {c : Command} {gaps : List (List Between)} {n : Nat} {w : State} (hs : s.TurnAllowed true)
    (hm : s.mayStep .task = none) (hturn : .task gaps ∈ s.schedule.head?)
    (hitem : ∀ i, decode c.word = .ok i → s.NextIssues i)
    (h : issueWord .task c gaps [] { s with schedule := rest, taskNext := n } = .next w) (hw : Untouched w t) :
    StepShape s t := by
  obtain ⟨v, rfl, ⟨hv, hfresh⟩ | ⟨i, u, hd, hu, hfresh, htg, hig, ha, hv⟩⟩ := issueWord_next hm h
  · have ht := (hv.trans (sameChannels_dropGaps v)).trans hw.sameChannels
    exact .quiet (.inl ht.rx) (.inl ht.tx) (hw.fresh.trans hfresh)
  · obtain hon | hoff := hv
    · exact .task gaps hturn i c.data (hitem i hd) u v ⟨hu, hfresh, htg, hig, ha, hon, hw⟩
    · have hblank : v.Blank := taskBody_off ha hoff (hw.fault hf) (hs.gaps hturn htg hu.rx.params)
      exact .blank (hw.blank hblank)

/-- Every step without a fault has one of the shapes. -/
theorem step_shape (hclean : s.NextTurnClean) (h : step s = .next t) : StepShape s t := by
  unfold step at h
  cases hsch : s.schedule with
  | nil => rw [hsch] at h; cases h; exact .idle rfl
  | cons tn rest =>
    rw [hsch] at h
    have hturn : tn ∈ s.schedule.head? := by rw [hsch]; rfl
    cases tn with
    | reset => cases h; exact .blank (State.blank_doReset _)
    | configure =>
      simp only [takeTurn, configureTurn] at h
      split at h
      · cases h
      · rename_i hfresh
        split at h
        · cases h; exact .configured rest (by simpa using hfresh) rfl
        · cases h
    | wire c =>
      obtain ⟨hm, h⟩ := agentTurn_next h
      exact wireTurn_shape hf (by rwa [State.mayStep_schedule] at hm) h
    | irq c gaps =>
      obtain ⟨hm, h⟩ := agentTurn_next h
      exact irqTurn_shape hf (by rwa [State.mayStep_schedule] at hm) hturn h
    | task gaps =>
      obtain ⟨hm, h⟩ := agentTurn_next h
      rw [State.mayStep_schedule] at hm
      have hs : s.TurnAllowed true := ⟨hclean, nofun⟩
      unfold taskTurn at h
      split at h
      · cases h
      · rename_i c hc
        exact taskWord_shape hf hs hm hturn (fun i hd => .inl ⟨c, hc, hd⟩) h (.refl t)
      · rename_i b hb
        split at h
        · rename_i w hw
          cases h
          exact taskWord_shape (n := s.taskNext) hf hs hm hturn
            (fun i hd => .inr ⟨⟨b, hb⟩, by rw [decode_putcWord] at hd; cases hd; rfl⟩) hw (putcAfter_untouched w)
        · cases h
        · cases h

end

end Sys2Proof.Machine

/-! Steps and runs: what R54 promises, and under which premises (10_state.md R54 to R58, R264; log 24, 28). -/

namespace Sys2Proof.Machine

/-! ## Commands of a turn -/

section
variable {raw : Bool} {s u v t : State} (hs : s.TurnAllowed raw) {i : Instr}
include hs

section
variable {c : Command} {gaps : List (List Quiet)} (turn : .irq c gaps ∈ s.schedule.head?) (word : decode c.word = .ok i)
  (ran : Ran .irq i c.data [] gaps s u v t)
include turn word ran

theorem Ran.irq_cleanInstr : CleanInstr raw u.params i := by
  rw [ran.before.rx.params]
  exact (hs.irq turn).cleanInstr word

theorem Ran.irq_move : Move raw u v :=
  irqBody_move (fun _ _ => irqGap_wireMove) (ran.irq_cleanInstr hs turn word) ran.admitted ran.body

end

section
variable {gaps : List (List Between)} {data : List Byte} (turn : .task gaps ∈ s.schedule.head?)
  (ran : Ran .task i data gaps [] s u v t)
include turn ran

theorem Ran.task_cleanInstr (item : s.NextIssues i) : CleanInstr raw u.params i := by
  rw [ran.before.rx.params]
  obtain ⟨c, hitem, hd⟩ | ⟨-, rfl⟩ := item
  · exact (hs.item turn hitem).cleanInstr hd
  · exact ⟨nofun, nofun, fun _ => ⟨nofun, nofun⟩⟩

theorem Ran.task_gapsAllowed : u.GapsAllowed raw := hs.gaps turn ran.taskGaps ran.before.rx.params

end

end

/-! ## What a step keeps -/

/-- An invariant of the channels that WIRE, and the commands of the turn, keep. -/
theorem StepShape.keeps {P : State → Prop} {s t : State} (h : StepShape s t) (hf : t.fault = none)
    (hquiet : ∀ u v, RxQuiet u v → TxQuiet u v → P u → P v) (hblank : ∀ u, u.Blank → P u)
    (hconf : ∀ rest, s.fresh = true → P s → P (State.configure { s with schedule := rest }))
    (hirq : ∀ c gaps, .irq c gaps ∈ s.schedule.head? → ∀ i, decode c.word = .ok i → ∀ u v,
      Ran .irq i c.data [] gaps s u v t → v.fault = none → P u → P v)
    (htask : ∀ gaps, .task gaps ∈ s.schedule.head? → ∀ i data, s.NextIssues i → ∀ u v,
      Ran .task i data gaps [] s u v t → v.fault = none → P u → P v)
    (hs : P s) : P t := by
  have hsame {u v : State} (h : SameChannels u v) : P u → P v := hquiet u v (.inl h.rx) (.inl h.tx)
  have close {who : Agent} {i : Instr} {data : List Byte} {tg : List (List Between)} {ig : List (List Quiet)} {u v : State}
      (ran : Ran who i data tg ig s u v t) (hv : v.fault = none → P u → P v) : P t := by
    have hend := (sameChannels_dropGaps v).trans ran.after.sameChannels
    exact hsame hend (hv (ran.after.fault hf) (hsame ran.before hs))
  cases h with
  | idle h => exact h ▸ hs
  | blank h => exact hblank t h
  | configured rest hfresh h => exact h ▸ hconf rest hfresh hs
  | quiet hrx htx _ => exact hquiet s t hrx htx hs
  | irq c gaps turn i word u v ran => exact close ran (hirq c gaps turn i word u v ran)
  | task gaps turn i data item u v ran => exact close ran (htask gaps turn i data item u v ran)

theorem StepShape.freshEmpty {s t : State} (h : StepShape s t) (hclean : s.NextTurnClean) (hf : t.fault = none)
    (hs : s.FreshEmpty) : t.FreshEmpty := by
  have hallowed : s.TurnAllowed true := ⟨hclean, nofun⟩
  have stale (h : t.fresh = false) : t.FreshEmpty := fun hfresh => absurd (hfresh.symm.trans h) (by decide)
  cases h with
  | idle h => exact h ▸ hs
  | blank h =>
    obtain ⟨-, hu, -, hp, -⟩ := h
    exact fun _ => ⟨hu, hp⟩
  | configured rest _ h => exact stale (h ▸ rfl)
  | quiet _ _ hfresh => exact stale hfresh
  | irq c gaps turn i word u v ran =>
    exact stale (ran.after.fresh.trans ((ran.irq_move hallowed turn word).steady.fresh.trans ran.fresh))
  | task gaps turn i data item u v ran =>
    exact stale (ran.after.fresh.trans (taskBody_fresh (t := v) ran.admitted ran.body (ran.after.fault hf)
      (ran.task_gapsAllowed hallowed turn) ran.fresh))

/-- The source's own bounds are R55 with the RX buffer in place of MAX_PACKET. -/
theorem rxGood_true_iff {s : State} : RxGood true s ↔ s.RxWithinBuffer :=
  ⟨fun h => ⟨h.bound, h.empty⟩, fun h => ⟨h.1, h.2, nofun⟩⟩

theorem rxGood_false_iff {s : State} : RxGood false s ↔ s.RxBounds ∧ s.RxPacketFits :=
  ⟨fun h => ⟨⟨h.bound, h.empty⟩, h.fits rfl⟩, fun ⟨h, hfits⟩ => ⟨h.1, h.2, fun _ => hfits⟩⟩

/-- R55, R57 and R58 with what makes them inductive, channel by channel. -/
theorem channelBounds_iff {s : State} :
    s.ChannelBounds ↔ RxGood false s ∧ s.TxOrderly ∧ s.TxBound ∧ s.FreshEmpty := by
  rw [rxGood_false_iff]
  tauto

/-- RX_DRAIN in a turn that re-arms safely. -/
theorem Ran.rearmsSafely {s u v t : State} {i : Instr} {data : List Byte} {gaps : List (List Between)}
    (ran : Ran .task i data gaps [] s u v t) (hsafe : s.rearmsSafely (.task gaps) = true)
    (item : s.NextIssues i) :
    (∃ k, i = .rxDrain k) → u.rxUnread = 0 → u.params.drainEmptyRearms = true → u.outFlag = false ∧ u.GapsEmpty := by
  rintro ⟨k, rfl⟩ hu hre
  obtain ⟨c, hitem, hd⟩ | ⟨-, hi⟩ := item
  · simp only [State.rearmsSafely, hitem, hd, decide_eq_true_eq] at hsafe
    rw [ran.before.rx.params] at hre
    rw [ran.before.rx.unread] at hu
    obtain hsafe | hsafe | ⟨hflag, hgaps⟩ := hsafe
    · exact absurd (hre.symm.trans hsafe) (by decide)
    · exact absurd hu hsafe
    · refine ⟨ran.before.rx.flag.trans hflag, fun g hg => ?_⟩
      rw [ran.taskGaps] at hg
      simpa using List.all_eq_true.mp hgaps g hg
  · cases hi

/-- Turns with nothing between their lines, or no command of IRQ, have WIRE steps and RESETs between TASK's. -/
theorem quiet_of_calm {p : Params} {gaps : List (List Between)} (h : (Turn.task gaps).undisturbed = true
    ∨ (p.rxAutoNak = false ∧ (Turn.task gaps).uninterrupted = true)) : ∀ g ∈ gaps, ∀ b ∈ g, ∃ q, b = .quiet q := by
  intro g hg b hb
  obtain h | ⟨-, h⟩ := h
  · have hnil : g = [] := by simpa using List.all_eq_true.mp h g hg
    rw [hnil] at hb
    cases hb
  · have hq := List.all_eq_true.mp (List.all_eq_true.mp h g hg) b hb
    cases b with
    | quiet q => exact ⟨q, rfl⟩
    | irq c ig => cases hq

section
variable {s t : State} (h : step s = .next t) (hf : t.fault = none)
include h hf

theorem step_txBound (hs : s.TurnAllowed true) : s.TxBound → t.TxBound :=
  (step_shape hf hs.1 h).keeps hf (fun _ _ _ htx => (TxMove.quiet (raw := true) htx).bound)
    (fun _ hu => by obtain ⟨⟨-, -, -, hb, -⟩, -⟩ := hu.channelInv; exact hb) (fun _ _ hs => hs)
    (fun _ _ turn _ word _ _ ran _ => (ran.irq_move hs turn word).tx.bound)
    (fun _ turn _ _ _ _ _ ran hf => taskBody_txBound ran.admitted ran.body hf (ran.task_gapsAllowed hs turn))

theorem step_good {raw : Bool} (hs : s.TurnAllowed raw) (hconf : ∀ rest, s.fresh = true → RxGood raw s →
    RxGood raw (State.configure { s with schedule := rest })) : RxGood raw s → RxGood raw t :=
  (step_shape hf hs.1 h).keeps hf (fun _ _ hrx _ => (RxMove.quiet hrx).good)
    (fun _ hu => by
      obtain ⟨-, hz, ho, -⟩ := id hu
      obtain ⟨⟨-, hfits, -⟩, -⟩ := hu.channelInv
      exact ⟨by simp [hz, ho], fun _ => ho, fun _ => hfits⟩) hconf
    (fun _ _ turn _ word _ _ ran _ => (ran.irq_move hs turn word).rx.good)
    (fun _ turn _ _ item _ _ ran hf => taskBody_good ran.admitted ran.body hf (ran.task_gapsAllowed hs turn)
      (ran.task_cleanInstr hs turn item))

/-- R56 with nothing between the turn's lines, or where an armed endpoint stays armed. -/
theorem step_handshake (hs : s.TurnAllowed true) (hempty : s.FreshEmpty) (hcalm : ∀ tn ∈ s.schedule.head?,
    tn.undisturbed = true ∨ (s.params.rxAutoNak = false ∧ tn.uninterrupted = true)) : s.RxHandshake → t.RxHandshake := by
  refine (step_shape hf hs.1 h).keeps hf (fun _ _ hrx _ => hrx.handshake) (fun _ hu => ?_) (fun _ hfresh _ => ?_)
    (fun c gaps turn i word u v ran hf => ?_) (fun gaps turn i data item u v ran hf => ?_)
  · obtain ⟨-, hh, -⟩ := hu.channelInv
    exact hh
  · exact fun hpos => absurd (hempty hfresh).1 (Nat.ne_of_gt hpos)
  · refine irqBody_handshake (ran.irq_cleanInstr hs turn word) ran.admitted ran.body hf ?_
    rw [State.GapsCalm, ran.irqGaps, ran.before.rx.params]
    exact (hcalm _ turn).imp (fun hu g hg => by simpa using List.all_eq_true.mp hu g hg) (·.1)
  · refine taskBody_handshake ran.admitted ran.body hf (ran.task_cleanInstr hs turn item) ?_
    rw [State.GapsQuiet, ran.taskGaps]
    exact quiet_of_calm (hcalm _ turn)

section
variable (hl : s.params.Legal) (hs : s.TurnAllowed false)
include hl hs

theorem step_txOrderly (hb : s.ChannelBounds) : t.TxOrderly := by
  obtain ⟨⟨-, ho⟩, -, hfl, -, hone, hempty⟩ := hb
  refine (step_shape hf hs.1 h).keeps hf (fun _ _ _ htx => (TxMove.quiet htx).orderly) (fun _ hu => ?_)
    (fun rest hfresh _ => ?_) (fun _ _ turn _ word _ _ ran _ => (ran.irq_move hs turn word).tx.orderly)
    (fun _ turn _ _ item _ _ ran hf => taskBody_txOrderly ran.admitted ran.body hf (ran.task_gapsAllowed hs turn)
      (ran.task_cleanInstr hs turn item)) ⟨hfl, hone⟩
  · obtain ⟨⟨-, -, hfl, -, hone, -⟩, -⟩ := hu.channelInv
    exact ⟨hfl, hone⟩
  · obtain ⟨hu, hp⟩ := hempty hfresh
    obtain ⟨⟨-, -, hfl, -, hone, -⟩, -⟩ := State.channelInv_configure (s := { s with schedule := rest }) hl hu (ho hu) hp
    exact ⟨hfl, hone⟩

theorem step_channelBounds (hb : s.ChannelBounds) : t.ChannelBounds := by
  have htx := step_txOrderly h hf hl hs hb
  have hclean : s.TurnAllowed true := ⟨hs.1, nofun⟩
  obtain ⟨hgood, -, hbound, hempty⟩ := channelBounds_iff.mp hb
  refine channelBounds_iff.mpr ⟨step_good h hf hs (fun rest hfresh _ => ?_) hgood, htx, step_txBound h hf hclean hbound,
    (step_shape hf hs.1 h).freshEmpty hs.1 hf hempty⟩
  obtain ⟨hu, hp⟩ := hempty hfresh
  obtain ⟨hb, -⟩ := State.channelInv_configure (s := { s with schedule := rest }) hl hu (hgood.empty hu) hp
  exact (channelBounds_iff.mp hb).1

/-- R56 with what makes it inductive, where RX_AUTO_NAK is true and RX_DRAIN re-arms an empty buffer safely. -/
theorem step_rxOrderly (hsafe : s.NextTurnRearmsSafely) (hnak : s.params.rxAutoNak = true) (hi : s.ChannelInv) :
    t.RxOrderly := by
  obtain ⟨⟨⟨-, ho⟩, -, -, -, -, hempty⟩, hrx⟩ := hi
  have hkeep : t.params.rxAutoNak = true → t.RxOrderly := by
    refine (step_shape hf hs.1 h).keeps (P := fun u => u.params.rxAutoNak = true → u.RxOrderly) hf
      (fun u v hq _ hu hn => ?_) (fun u hu _ => hu.channelInv.2) (fun rest hfresh _ _ => ?_)
      (fun c gaps turn i word u v ran _ hu hn => ?_) (fun gaps turn i data item u v ran hf hu hn => ?_) fun _ => hrx
    · rw [hq.params] at hn
      exact (RxMove.quiet hq).orderly hn (hu hn)
    · obtain ⟨hu, hp⟩ := hempty hfresh
      exact (State.channelInv_configure (s := { s with schedule := rest }) hl hu (ho hu) hp).2
    · have hm := ran.irq_move hs turn word
      rw [hm.steady.params] at hn
      exact hm.rx.orderly hn (hu hn)
    · have hnu : u.params.rxAutoNak = true := by rw [ran.before.rx.params]; exact hnak
      exact taskBody_rxOrderly ran.admitted ran.body hf (ran.task_gapsAllowed hs turn) (ran.task_cleanInstr hs turn item) hnu
        (ran.rearmsSafely (hsafe _ turn) item) (hu hnu)
  exact hkeep ((step_sameRun h).1 ▸ hnak)

theorem step_channelInv (hsafe : s.NextTurnRearmsSafely) (hnak : s.params.rxAutoNak = true) (hi : s.ChannelInv) :
    t.ChannelInv := ⟨step_channelBounds h hf hl hs hi.1, step_rxOrderly h hf hl hs hsafe hnak hi⟩

end

end

end Sys2Proof.Machine

/-! Runs and quiescent points (10_state.md R54 to R58; log 24, 28). -/

namespace Sys2Proof.Machine

/-- Changes in any number take no fault back, and leave the parameters alone. -/
theorem Changes.fault_params {s t : State} (h : Changes s t) :
    (t.fault = none → s.fault = none) ∧ t.params = s.params := by
  induction h with
  | refl => exact ⟨id, rfl⟩
  | tail _ hlast ih =>
    refine ⟨fun hf => ih.1 (Option.eq_none_iff_forall_ne_some.mpr fun f hs => ?_), hlast.sameRun.1.trans ih.2⟩
    rw [hlast.marksKept.1 f hs] at hf
    cases hf

section
variable {p : Params} {ok : State → Prop} {P : State → Prop} (hl : p.Legal) (hinit : ∀ s, s.ChannelInv → P s)
  (hstep : ∀ s t, s.params = p → ok s → step s = .next t → t.fault = none → P s → P t)
include hl hinit hstep

/-- An invariant of fault-free steps that the configured state meets holds all along a fault-free run. -/
theorem configuredRun_keeps {s : State} (h : ConfiguredRun p ok s) : s.fault = none → s.params = p ∧ P s := by
  induction h with
  | powerOn program tail schedule =>
    exact fun _ => ⟨rfl, hinit _ (State.channelInv_configure (s := State.powerOn p) hl rfl rfl rfl)⟩
  | reset u hp =>
    have hl : u.doReset.params.Legal := hp ▸ hl
    exact fun _ => ⟨hp, hinit _ (State.channelInv_configure (s := u.doReset) hl rfl rfl rfl)⟩
  | step _ hok hnext _ ih =>
    intro hf
    obtain ⟨hback, hparams⟩ := (step_changes hnext).fault_params
    obtain ⟨hp, hs⟩ := ih (hback hf)
    exact ⟨hparams.trans hp, hstep _ _ hp hok hnext hf hs⟩

/-- At a quiescent point of the run each of R55 to R58 holds, if it did in a state where `P` holds. -/
theorem quiescentPoint_keeps {m : State} (h : QuiescentPoint p ok m) (hclean : ∀ s, ok s → s.NextTurnClean)
    (hf : m.fault = none) : ∃ s, P s ∧ (s.RxBounds → m.RxBounds) ∧ (s.RxHandshake → m.RxHandshake)
      ∧ (s.TxInFlight → m.TxInFlight) ∧ (s.TxBound → m.TxBound) := by
  cases h with
  | betweenTurns run _ =>
    obtain ⟨-, hs⟩ := configuredRun_keeps hl hinit hstep run hf
    exact ⟨m, hs, id, id, id, id⟩
  | @insideTurn s _ run hok point _ idle =>
    obtain ⟨-, hs⟩ := configuredRun_keeps hl hinit hstep run ((irqTurnPoint_changes point).fault_params.1 hf)
    exact ⟨s, hs, irqTurnPoint_keeps (hclean s hok) point hf idle⟩

end

/-- R55's bound fits the RX buffer (00_scope.md R11). -/
theorem maxPacket_le_rxCap (p : Params) : p.maxPacket ≤ p.rxCap := Nat.le_mul_of_pos_left _ (by decide)

/-- What a step keeps, premise by premise. -/
theorem cleanStep_keeps {s t : State} (hl : s.params.Legal) (hclean : s.NextTurnClean) (h : step s = .next t)
    (hf : t.fault = none) :
    (s.TxBound → t.TxBound)
    ∧ (s.RxWithinBuffer → t.RxWithinBuffer)
    ∧ ((∀ tn ∈ s.schedule.head?, tn.undisturbed = true ∨ (s.params.rxAutoNak = false ∧ tn.uninterrupted = true)) →
      s.FreshEmpty ∧ s.RxHandshake → t.FreshEmpty ∧ t.RxHandshake)
    ∧ (s.NextTurnDispatches → s.ChannelBounds → t.ChannelBounds)
    ∧ (s.NextTurnDispatches → s.NextTurnRearmsSafely → s.params.rxAutoNak = true → s.ChannelInv → t.ChannelInv) := by
  have hs : s.TurnAllowed true := ⟨hclean, nofun⟩
  refine ⟨step_txBound h hf hs, fun hw => ?_, fun hcalm ⟨hempty, hh⟩ => ?_,
    fun hd => step_channelBounds h hf hl ⟨hclean, fun _ => hd⟩, fun hd => step_channelInv h hf hl ⟨hclean, fun _ => hd⟩⟩
  · exact rxGood_true_iff.mp (step_good h hf hs (fun _ _ hs => ⟨hs.bound, hs.empty, nofun⟩) (rxGood_true_iff.mpr hw))
  · exact ⟨(step_shape hf hclean h).freshEmpty hclean hf hempty, step_handshake h hf hs hempty hcalm hh⟩

section
variable {p : Params} {m : State} (hl : p.Legal) (hf : m.fault = none)
include hl hf

/-- R55, R57 and R58 where callbacks run by INT_DISPATCH alone. -/
theorem quiescentPoint_bounds (h : QuiescentPoint p (fun s => s.NextTurnClean ∧ s.NextTurnDispatches) m) :
    m.RxBounds ∧ m.params.maxPacket ≤ m.params.rxCap ∧ m.TxInFlight ∧ m.TxBound := by
  obtain ⟨s, ⟨hb, -, hfl, htb, -⟩, hkb, -, hkf, hkt⟩ := quiescentPoint_keeps hl (P := State.ChannelBounds)
    (fun _ hi => hi.1)
    (fun s t hp ⟨hclean, hd⟩ hnext hf => step_channelBounds hnext hf (hp ▸ hl) ⟨hclean, fun _ => hd⟩)
    h (fun _ hok => hok.1) hf
  exact ⟨hkb hb, maxPacket_le_rxCap m.params, hkf hfl, hkt htb⟩

/-- And R56 with them where RX_AUTO_NAK is true and RX_DRAIN re-arms an empty buffer safely. -/
theorem quiescentPoint_rules (hnak : p.rxAutoNak = true)
    (h : QuiescentPoint p (fun s => s.NextTurnClean ∧ s.NextTurnDispatches ∧ s.NextTurnRearmsSafely) m) :
    m.ChannelRules := by
  obtain ⟨s, ⟨⟨hb, -, hfl, htb, -⟩, hh, -⟩, hkb, hkh, hkf, hkt⟩ := quiescentPoint_keeps hl (P := State.ChannelInv)
    (fun _ => id)
    (fun s t hp ⟨hclean, hd, hsafe⟩ hnext hf =>
      step_channelInv hnext hf (hp ▸ hl) ⟨hclean, fun _ => hd⟩ hsafe (hp ▸ hnak))
    h (fun _ hok => hok.1) hf
  exact ⟨hkb hb, maxPacket_le_rxCap m.params, hkh hh, hkf hfl, hkt htb⟩

end

/-- Settles O59: a step by the shapes of a turn (`StepShape`) and by what moves can do between a command's lines (`RxMove`,
`TxMove`), a point inside IRQ's turn by what it shows of the channels (`PointMove`), and runs by induction from the configured
state. -/
theorem cleanStepKeepsTheChannelInvariants : Obligations.CleanStepKeepsTheChannelInvariants :=
  ⟨fun _ _ => cleanStep_keeps, fun _ _ _ => irqTurnPoint_keeps,
    fun _ _ hl hf => ⟨quiescentPoint_bounds hl hf, quiescentPoint_rules hl hf⟩⟩

end Sys2Proof.Machine

/-! What the commands of the two channels do to the memories when nothing falls between their lines (20_memory.md R72;
41_rx_channel.md R150, R152; 42_tx_channel.md R170). -/

namespace Sys2Proof.Machine

/-! ## A port written before another element changes is as well written after it -/

section
variable (s : State) (who : Agent) (p : Port)

@[simp] theorem State.setEpr_setPort (ep : EpNum) (v : Half) :
    (s.setPort who p).setEpr ep v = (s.setEpr ep v).setPort who p := by cases who <;> rfl
@[simp] theorem State.setTxCount_setPort (ep : EpNum) (n : Nat) :
    (s.setPort who p).setTxCount ep n = (s.setTxCount ep n).setPort who p := by cases who <;> rfl
@[simp] theorem State.setRxCapacity_setPort (ep : EpNum) (n : Nat) :
    (s.setPort who p).setRxCapacity ep n = (s.setRxCapacity ep n).setPort who p := by cases who <;> rfl
@[simp] theorem State.setPma_setPort (m : Memory) : (s.setPort who p).setPma m = (s.setPma m).setPort who p := by
  cases who <;> rfl
@[simp] theorem State.setRxBuf_setPort (m : Memory) : (s.setPort who p).setRxBuf m = (s.setRxBuf m).setPort who p := by
  cases who <;> rfl
@[simp] theorem State.setRxUnread_setPort (n : Nat) :
    (s.setPort who p).setRxUnread n = (s.setRxUnread n).setPort who p := by cases who <;> rfl
@[simp] theorem State.setRxOffset_setPort (n : Nat) :
    (s.setPort who p).setRxOffset n = (s.setRxOffset n).setPort who p := by cases who <;> rfl
@[simp] theorem State.setTxPending_setPort (n : Nat) :
    (s.setPort who p).setTxPending n = (s.setTxPending n).setPort who p := by cases who <;> rfl
@[simp] theorem State.setSetupPending_setPort (q : Option SetupPacket) :
    (s.setPort who p).setSetupPending q = (s.setSetupPending q).setPort who p := by cases who <;> rfl
@[simp] theorem State.enterHandler_setPort : (s.setPort who p).enterHandler = s.enterHandler.setPort who p := by
  cases who <;> rfl
@[simp] theorem State.leaveHandler_setPort : (s.setPort who p).leaveHandler = s.leaveHandler.setPort who p := by
  cases who <;> rfl
@[simp] theorem setLineState_issuer (v : Half) : (setLineState v s).issuer = s.issuer := rfl
@[simp] theorem setLineState_setPort (v : Half) :
    setLineState v (s.setPort who p) = (setLineState v s).setPort who p := by cases who <;> rfl

/-- The port of a command that begins (00_scope.md R16). -/
theorem State.clearPort_eq : s.clearPort who = s.setPort who ⟨none, []⟩ := rfl

/-- The port of a command that has returned data. -/
@[simp] theorem State.outData_clearPort (bytes : List Byte) :
    (s.clearPort who).outData who bytes = s.setPort who ⟨none, bytes⟩ := by
  simp [State.outData, State.clearPort_eq]

@[simp] theorem State.ret_setPort (r : Result) :
    (s.setPort who p).ret who r = s.setPort who { p with result := some r } := by
  simp [State.ret]

end

/-! ## Bytes stored and copied -/

/-- A write of `bs` at `a` in packet memory: `bs` inside it, the old bytes outside. -/
theorem State.pmaByte_stored (s : State) (a : Nat) (bs : List Byte) :
    (∀ k, k < bs.length → bs[k]? = some ((s.setPma (s.pma.storeBytes a bs)).pmaByte (a + k)))
      ∧ ∀ a', a' < a ∨ a + bs.length ≤ a' → (s.setPma (s.pma.storeBytes a bs)).pmaByte a' = s.pmaByte a' := by
  refine ⟨fun k hk => ?_, fun a' h => ?_⟩
  · rw [s.pmaByte_storeBytes, dif_pos (by omega), List.getElem?_eq_getElem hk]
    simp
  · rw [s.pmaByte_storeBytes, dif_neg (by omega)]

/-- A copy of `len` bytes of packet memory to the start of the RX buffer. -/
theorem State.rxBufByte_copied (s : State) (addr len : Nat) :
    let m := s.rxBuf.storeBytes 0 ((List.range len).map fun k => s.pmaByte (addr + k))
    (∀ k, k < len → (s.setRxBuf m).rxBufByte k = s.pmaByte (addr + k))
      ∧ ∀ k, len ≤ k → (s.setRxBuf m).rxBufByte k = s.rxBufByte k := by
  refine ⟨fun k hk => ?_, fun k hk => ?_⟩
  · rw [s.rxBufByte_storeBytes, dif_pos (by simpa using hk)]
    simp
  · rw [s.rxBufByte_storeBytes, dif_neg (by simpa using hk)]

/-- Bytes that are read one by one as those of a list are a part of that list. -/
theorem map_range_eq_take {α : Type} {l : List α} {f : Nat → α} {n : Nat} (h : ∀ k, k < n → l[k]? = some (f k)) :
    (List.range n).map f = l.take n := by
  refine List.ext_getElem? fun k => ?_
  by_cases hk : k < n
  · simp [hk, h k hk]
  · simp [hk]

/-! ## The lines of RX_DRAIN and TX_SUBMIT, undisturbed -/

section
variable {gap : Gap} {s : State} {n : Nat} (who : Agent) (data : List Byte)
  (hg : ∀ u : State, u.taskGaps = s.taskGaps → u.irqGaps = s.irqGaps → gap u = .on u) (hn : n ≠ 0)
include hg hn

/-- RX_DRAIN of `n` bytes: they become data, the counters move, and after the last unread byte the endpoint is re-armed. -/
theorem rxDrainBody_undisturbed {maxLen : Half} (hmin : min maxLen.toNat s.rxUnread = n)
    (hcap : s.rxOffset + n ≤ s.params.rxCap) :
    let t := ((s.outData who ((List.range n).map fun k => s.rxBufByte (s.rxOffset + k))).setRxOffset
      (s.rxOffset + n)).setRxUnread (s.rxUnread - n)
    rxDrainBody maxLen who gap data s =
      if s.rxUnread - n = 0 then rearmLines n who gap t else .on (t.ret who (.value n)) := by
  unfold rxDrainBody
  simp only [hmin, if_neg hn, hg s rfl rfl, Flow.andThen_on, State.readRxBuf_eq hcap, Flow.orRaise_ok]
  by_cases hleft : s.rxUnread - n = 0 <;> simp [hg, hleft]

/-- TX_SUBMIT of `n` bytes inside packet memory, with nothing in flight. -/
theorem txSubmitBody_undisturbed {len : Half} (hmin : min len.toNat s.params.txClamp = n) (hp : s.txPending = 0)
    (hdata : data.length = len.toNat) (hmem : (s.bdtAt s.params.epIn).txAddr.toNat + n ≤ s.params.pmaSize) :
    txSubmitBody len who gap data s =
      .on (((((s.setPma (s.pma.storeBytes (s.bdtAt s.params.epIn).txAddr.toNat (data.take n))).setTxCount s.params.epIn
        n).setTxPending n).setEpr s.params.epIn ((s.eprAt s.params.epIn &&& 0xFFCF) ||| 0x0030)).ret who (.value n)) := by
  have htake : (data.take n).length = n := by rw [List.length_take]; omega
  unfold txSubmitBody
  rw [hmin, if_neg (by simp [hp, hn]), hg s rfl rfl, Flow.andThen_on, State.writePma_eq (by rwa [htake]), Flow.orRaise_ok,
    hg _ (by rfl) (by rfl), Flow.andThen_on, hg _ (by rfl) (by rfl), Flow.andThen_on, hg _ (by rfl) (by rfl),
    Flow.andThen_on, epSetTxStatusLines_undisturbed (hg _ (by rfl) (by rfl))]
  rfl

end

/-! ## Commands of the two channels, undisturbed -/

/-- Settles O22: the RX buffer is the old one with the packet's bytes stored from its start. -/
theorem rxCompletePublishesThePacket : Obligations.RxCompletePublishesThePacket := by
  intro s hi hd hs hu ho ep len addr hcap hmem
  have ha : s.Admits .rxComplete := State.admits_iff.mpr ⟨rfl, rfl, by rw [hi]; rfl, by rw [hd]; rfl, rfl⟩
  refine ⟨s.rxBuf.storeBytes 0 ((List.range len).map fun k => s.pmaByte (addr + k)), ?_, s.rxBufByte_copied addr len⟩
  rw [exec_of_admits ha, hi, bodyOf, rxCompleteBody,
    rxCompleteLines_undisturbed (s := s.clearPort .irq) .irq (fun u ht hi => hs.gap ht hi .irq) hu ho hcap hmem]
  simp [State.returned, State.clearPort_eq, hi, EpStatus.code, ep, len, addr]

/-- Settles O25: the unread bytes read, the counters either stop short of the last byte or come to 0 with the re-arm. -/
theorem drainReturnsUnreadBytes : Obligations.DrainReturnsUnreadBytes := by
  intro s maxLen hi hd hs hu hm ep n bytes hcap
  have ha : s.Admits (.rxDrain maxLen) := State.admits_iff.mpr ⟨rfl, rfl, by rw [hi]; rfl, by rw [hd]; rfl, rfl⟩
  have hm : maxLen.toNat ≠ 0 := fun h => hm (BitVec.eq_of_toNat_eq h)
  have hn : n ≠ 0 := by omega
  rw [exec_of_admits ha, hi, bodyOf,
    rxDrainBody_undisturbed (s := s.clearPort .task) .task _ (fun u ht hi => hs.gap ht hi .task) hn rfl hcap]
  by_cases hlt : maxLen.toNat < s.rxUnread
  · have hleft : s.rxUnread - n ≠ 0 := by omega
    rw [if_neg (by exact hleft), if_pos hlt]
    simp [State.returned, hi, bytes]
  · have hleft : s.rxUnread - n = 0 := by omega
    rw [if_pos (by exact hleft), if_neg hlt,
      rearmLines_undisturbed n .task fun u ht hi => hs.gap (ht.trans (by simp)) (hi.trans (by simp)) .task]
    simp [State.returned, hi, hleft, EpStatus.code]
    rfl

/-- Settles O31: packet memory is the old one with the accepted bytes stored at `tx_addr`. -/
theorem txSubmitStagesThePacket : Obligations.TxSubmitStagesThePacket := by
  intro s len hi hd hs hp ep n addr hn hmem
  have ha : s.Admits (.txSubmit len) := State.admits_iff.mpr ⟨rfl, rfl, by rw [hi]; rfl, hd, rfl⟩
  have htake : (s.inData.take n).length = n := by rw [List.length_take, hd]; omega
  obtain ⟨hin, hout⟩ := s.pmaByte_stored addr (s.inData.take n)
  rw [htake] at hin hout
  refine ⟨s.pma.storeBytes addr (s.inData.take n), ?_, fun k hk => ?_, hout⟩
  · rw [exec_of_admits ha, hi, bodyOf,
      txSubmitBody_undisturbed (s := s.clearPort .task) .task _ (fun u ht hi => hs.gap ht hi .task) hn rfl hp hd hmem]
    simp [State.returned, State.clearPort_eq, hi, ep, addr]
  · rw [← hin k hk, List.getElem?_take_of_lt hk]

end Sys2Proof.Machine

/-! SETUP packets as bytes, and the requests they carry (30_encoding.md R115, R116; 43_dtr_detector.md R200;
44_wire_events.md R216). -/

namespace Sys2Proof.Machine

/-- A 16-bit field of a SETUP packet, little-endian (30_encoding.md R115). -/
theorem append_eq_or_shiftLeft (hi lo : Byte) : (hi ++ lo : Half) = lo.setWidth 16 ||| (hi.setWidth 16 <<< 8) := by
  apply BitVec.eq_of_getLsbD_eq
  intro i h
  simp only [BitVec.getLsbD_append, BitVec.getLsbD_or, BitVec.getLsbD_setWidth, BitVec.getLsbD_shiftLeft]
  by_cases hlow : i < 8
  · simp [hlow, h]
  · simp [hlow, h, show i - 8 < 16 by omega, BitVec.getLsbD_of_ge lo i (by omega)]

theorem SetupPacket.supported_iff {p : SetupPacket} : p.supported = true ↔ p.classInterface = true ∧
    (p.bRequest = 0x22 ∨ p.bRequest = 0x20 ∨ p.bRequest = 0x21 ∨ p.bRequest = 0x02) := by
  simp [SetupPacket.supported, or_assoc]

/-- CLASS_REQUEST runs the classifier's line and returns its answer. -/
theorem exec_classRequest {s : State} (ha : s.Admits .classRequest) (hi : s.issuer = .irq) :
    exec .classRequest s = .next ((classRequestLine (SetupPacket.ofBytes s.inData) s).returned
      (Result.ofBool (SetupPacket.ofBytes s.inData).supported) []) := by
  rw [exec_of_admits ha, hi, bodyOf, classRequestBody]
  simp only [classRequestLine]
  split
  · simp [State.returned, State.clearPort_eq, hi]
  · simp [State.returned, hi]

/-- Settles O35: the tests of `bmRequestType` and `bRequest` in R200's order. -/
theorem classRequestClassifies : Obligations.ClassRequestClassifies := by
  intro s hi hd bmRT bReq wValue
  have ha : s.Admits .classRequest := State.admits_iff.mpr ⟨rfl, rfl, by rw [hi]; rfl, hd, rfl⟩
  have hclass : (SetupPacket.ofBytes s.inData).classInterface = true ↔ bmRT &&& 0x7F = 0x21 := decide_eq_true_iff
  have hsup : (SetupPacket.ofBytes s.inData).supported = true ↔
      bmRT &&& 0x7F = 0x21 ∧ (bReq = 0x22 ∨ bReq = 0x20 ∨ bReq = 0x21 ∨ bReq = 0x02) :=
    SetupPacket.supported_iff.trans (and_congr_left' hclass)
  have hline : classRequestLine (SetupPacket.ofBytes s.inData) s =
      if bmRT &&& 0x7F = 0x21 ∧ bReq = 0x22 then setLineState wValue s else s := by
    simp only [classRequestLine, hclass]
    rw [show (SetupPacket.ofBytes s.inData).wValue = wValue from append_eq_or_shiftLeft _ _]
    rfl
  rw [exec_classRequest ha hi, hline]
  by_cases hrt : bmRT &&& 0x7F = 0x21
  · rw [if_neg (not_not.mpr hrt)]
    by_cases hset : bReq = 0x22
    · rw [if_pos ⟨hrt, hset⟩, if_pos hset, hsup.mpr ⟨hrt, .inl hset⟩]
      rfl
    · rw [if_neg (fun h => hset h.2), if_neg hset]
      by_cases hsilent : bReq = 0x20 ∨ bReq = 0x21 ∨ bReq = 0x02
      · rw [if_pos hsilent, hsup.mpr ⟨hrt, .inr hsilent⟩]
        rfl
      · rw [if_neg hsilent, Bool.eq_false_iff.mpr (mt hsup.mp (by tauto))]
        rfl
  · rw [if_neg (fun h => hrt h.1), if_pos hrt, Bool.eq_false_iff.mpr (fun h => hrt (hsup.mp h).1)]
    rfl

/-- The packet that eight bytes spell is spelled by them (30_encoding.md R115). -/
theorem SetupPacket.bytes_ofBytes {d : List Byte} (h : d.length = 8) : (SetupPacket.ofBytes d).bytes = d := by
  match d, h with
  | [b0, b1, b2, b3, b4, b5, b6, b7], _ =>
    simp only [SetupPacket.ofBytes, SetupPacket.bytes, List.getD_cons_zero, List.getD_cons_succ]
    rw [BitVec.extractLsb'_append_eq_right, BitVec.extractLsb'_append_eq_left, BitVec.extractLsb'_append_eq_right,
      BitVec.extractLsb'_append_eq_left, BitVec.extractLsb'_append_eq_right, BitVec.extractLsb'_append_eq_left]

/-- Settles O42: the one line stores the packet that the eight bytes spell, unless a packet is pending. -/
theorem hostSetupQueuesThePacket : Obligations.HostSetupQueuesThePacket := by
  intro s hw ha
  obtain ⟨-, -, -, hlen, -⟩ := State.admits_iff.mp ha
  refine ⟨fun hnone => ⟨SetupPacket.ofBytes s.inData, ?_, SetupPacket.bytes_ofBytes hlen⟩, fun hsome => ?_⟩
  · rw [exec_of_admits ha, hw, bodyOf, hostSetupBody, if_neg (by simp [hnone])]
    simp [State.returned, State.clearPort_eq, hw]
  · rw [exec_of_admits ha, hw, bodyOf, hostSetupBody, if_pos (by simpa [Option.isSome_iff_ne_none])]
    rfl

end Sys2Proof.Machine

/-! The way of a packet through the block, turn by turn: from TX_SUBMIT to the host, and from the host to RX_DRAIN
(20_memory.md R72). -/

namespace Sys2Proof.Machine

/-! ## Turns that issue an encoded command -/

/-- The decoder reads back what the encoder writes, but for a dispatch of SETUP off endpoint 0 (30_encoding.md R114). -/
theorem decode_encode {i : Instr} (h : i.sourceFits = true) : decode (encode i) = .ok i := by
  rw [decode_encode_eq]
  cases i with
  | epSetRxStatus | epSetTxStatus | epSetType => simp [Instr.fields, decodeFields, Fields.formatE]
  | intDispatch ep src =>
    cases src with
    | setup => simp_all [Instr.fields, decodeFields, Fields.formatE, decodeDispatch, Instr.sourceFits]
    | _ => rfl
  | _ => rfl

/-- The state in which a turn's command runs: the command is on the interface with nothing to fall between its lines, the
turns `rest` are left, and item `next` is TASK's next. -/
def State.onInterface (s : State) (rest : List Turn) (next : Nat) (who : Agent) (data : List Byte) : State :=
  ({ s with schedule := rest }.setTaskNext next).latch who data [] []

section
variable {s : State} {i : Instr} {data : List Byte} {rest : List Turn} (hi : i.sourceFits = true)
include hi

theorem step_task_encode (hsched : s.schedule = .task [] :: rest) (hs : s.taskStopped = false) (hidle : s.irqActive = false)
    (hitem : s.nextItem = some (.cmd ⟨encode i, data⟩)) :
    step s = exec i (s.onInterface rest (s.taskNext + 1) .task data) :=
  (stepIssuesTheDecodedCommand.1 s [] rest _ hsched hs hidle hitem).1 i (decode_encode hi)

theorem step_irq_encode (hsched : s.schedule = .irq ⟨encode i, data⟩ [] :: rest) (hs : s.irqStopped = false)
    (hidle : s.irqActive = false) : step s = exec i (s.onInterface rest s.taskNext .irq data) :=
  (stepIssuesTheDecodedCommand.2.1 s [] rest _ hsched hs hidle).1 i (decode_encode hi)

theorem step_wire_encode (hsched : s.schedule = .wire ⟨encode i, data⟩ :: rest) (hs : s.wireStopped = false) :
    step s = exec i (s.onInterface rest s.taskNext .wire data) :=
  (stepIssuesTheDecodedCommand.2.2 s rest _ hsched hs).1 i (decode_encode hi)

end

section
variable (s : State) (rest : List Turn) (next : Nat) (who : Agent) (data : List Byte)

theorem State.onInterface_undisturbed : (s.onInterface rest next who data).Undisturbed := ⟨rfl, rfl⟩
@[simp] theorem State.onInterface_schedule : (s.onInterface rest next who data).schedule = rest := rfl
@[simp] theorem State.onInterface_issuer : (s.onInterface rest next who data).issuer = who := rfl
@[simp] theorem State.onInterface_inData : (s.onInterface rest next who data).inData = data := rfl
@[simp] theorem State.onInterface_params : (s.onInterface rest next who data).params = s.params := rfl
@[simp] theorem State.onInterface_eprAt (e : EpNum) : (s.onInterface rest next who data).eprAt e = s.eprAt e := rfl
@[simp] theorem State.onInterface_bdtAt (e : EpNum) : (s.onInterface rest next who data).bdtAt e = s.bdtAt e := rfl
@[simp] theorem State.onInterface_pmaByte (a : Nat) : (s.onInterface rest next who data).pmaByte a = s.pmaByte a := rfl
@[simp] theorem State.onInterface_rxBufByte (a : Nat) :
    (s.onInterface rest next who data).rxBufByte a = s.rxBufByte a := rfl
@[simp] theorem State.onInterface_rxUnread : (s.onInterface rest next who data).rxUnread = s.rxUnread := rfl
@[simp] theorem State.onInterface_rxOffset : (s.onInterface rest next who data).rxOffset = s.rxOffset := rfl
@[simp] theorem State.onInterface_txPending : (s.onInterface rest next who data).txPending = s.txPending := rfl
@[simp] theorem State.onInterface_wireLog : (s.onInterface rest next who data).wireLog = s.wireLog := rfl
@[simp] theorem State.onInterface_fault : (s.onInterface rest next who data).fault = s.fault := rfl
@[simp] theorem State.onInterface_stopped (a : Agent) : (s.onInterface rest next who data).stopped a = s.stopped a := by
  cases a <;> rfl

end

/-- The port of a TASK command that has returned. -/
theorem State.taskPort_returned {s : State} (hi : s.issuer = .task) (r : Result) (d : List Byte) :
    (s.returned r d).taskPort = ⟨some r, d⟩ := by
  rw [State.returned, hi]
  rfl

/-! ## Descriptors after one field is written -/

@[simp] theorem State.bdtAt_setTxCount (s : State) (ep : EpNum) (n : Nat) :
    (s.setTxCount ep n).bdtAt ep = { s.bdtAt ep with txCount := BitVec.ofNat 10 n } := s.bdtAt_setBdt_same ep _

@[simp] theorem State.bdtAt_setRxCount (s : State) (ep : EpNum) (n : Nat) :
    (s.setRxCount ep n).bdtAt ep = { s.bdtAt ep with rxCount := BitVec.ofNat 10 n } := s.bdtAt_setBdt_same ep _

theorem Params.maxPacket_bounds {p : Params} (h : p.Legal) : 8 ≤ p.maxPacket ∧ p.maxPacket ≤ 64 := by
  obtain ⟨-, hmax, -⟩ := h
  omega

/-- What a command on a packet's way leaves for the turns after it. -/
structure Beside (s t : State) : Prop where
  params : t.params = s.params
  schedule : t.schedule = s.schedule
  nextItem : t.nextItem = s.nextItem
  stopped : ∀ who, t.stopped who = s.stopped who
  irqActive : t.irqActive = s.irqActive
  fault : t.fault = s.fault

/-! ## A packet from TX_SUBMIT to the host -/

/-- What EP_SET_TX_STATUS to VALID leaves. -/
theorem statTx_or_valid (r : Half) : statTx ((r &&& 0xFFCF) ||| 0x0030) = .valid := by
  have hvalid : statTx (eprWritten r (txStatusWord r .valid)) = .valid := by
    rw [statTx_eprWritten, statTx_txStatusWord]
    exact (EpStatus.toggled _ _ _).2 rfl
  exact (congrArg statTx (eprWritten_txStatusWord r .valid)).symm.trans hvalid

/-- TX_SUBMIT has staged this packet for `EP_IN`, and no IN token has fetched it. -/
structure State.Staged (s : State) (bytes : List Byte) : Prop where
  pending : s.txPending = bytes.length
  armed : statTx (s.eprAt s.params.epIn) = .valid
  count : (s.bdtAt s.params.epIn).txCount.toNat = bytes.length
  inside : (s.bdtAt s.params.epIn).txAddr.toNat + bytes.length ≤ s.params.pmaSize
  stored : (List.range bytes.length).map (fun k => s.pmaByte ((s.bdtAt s.params.epIn).txAddr.toNat + k)) = bytes

/-- TASK's TX_SUBMIT with nothing in flight stages the first `n` bytes. -/
theorem step_txSubmit_staged {s : State} {rest : List Turn} {data : List Byte} {n : Nat}
    (hsched : s.schedule = .task [] :: rest) (hs : s.taskStopped = false) (hidle : s.irqActive = false)
    (hitem : s.nextItem = some (.cmd ⟨encode (.txSubmit (BitVec.ofNat 16 data.length)), data⟩)) (hp : s.txPending = 0)
    (hlen : data.length < 65536) (hmin : min data.length s.params.txClamp = n) (hn : n ≠ 0) (hcount : n < 1024)
    (hmem : (s.bdtAt s.params.epIn).txAddr.toNat + n ≤ s.params.pmaSize) :
    ∃ t, step s = .next t ∧ t.Staged (data.take n) ∧ Beside (s.onInterface rest (s.taskNext + 1) .task data) t
      ∧ t.taskPort = ⟨some (.value n), []⟩ ∧ t.wireLog = s.wireLog := by
  have hword : (BitVec.ofNat 16 data.length).toNat = data.length := Nat.mod_eq_of_lt hlen
  have htake : (data.take n).length = n := by rw [List.length_take]; omega
  obtain ⟨m, hrun, hbyte, -⟩ := txSubmitStagesThePacket (s.onInterface rest (s.taskNext + 1) .task data)
    (BitVec.ofNat 16 data.length) rfl hword.symm (s.onInterface_undisturbed ..) hp (by rw [hword]; exact hmin ▸ hn)
    (by rw [hword]; exact hmin ▸ hmem)
  simp only [hword, State.onInterface_params, hmin] at hrun hbyte
  refine ⟨_, (step_task_encode rfl hsched hs hidle hitem).trans hrun,
    { pending := ?_, armed := ?_, count := ?_, inside := ?_, stored := ?_ }, ?_, State.taskPort_returned (by simp) .., ?_⟩
  · simpa [State.returned] using htake.symm
  · simpa [State.returned] using statTx_or_valid _
  · simpa [State.returned, htake] using hcount
  · simpa [State.returned, htake] using hmem
  · rw [htake]
    simpa [State.returned] using map_range_eq_take hbyte
  · constructor <;> simp [State.returned]
  · simp [State.returned]

/-- The host's next IN token fetches the staged packet. -/
theorem step_hostIn_sends {s : State} {rest : List Turn} {bytes : List Byte} (hl : s.params.Legal) (h : s.Staged bytes)
    (hsched : s.schedule = .wire ⟨encode (.hostIn s.params.epIn), []⟩ :: rest) (hs : s.stopped .wire = false) :
    ∃ t, step s = .next t ∧ t.wireLog = s.wireLog ++ [.inData s.params.epIn bytes] ∧ t.txPending = s.txPending
      ∧ t.taskPort = s.taskPort ∧ statTx (t.eprAt s.params.epIn) = .nak ∧ ctrTx (t.eprAt s.params.epIn) = true := by
  obtain ⟨-, -, ⟨-, hep⟩, -⟩ := hl
  have ha : (s.onInterface rest s.taskNext .wire []).Admits (.hostIn s.params.epIn) := State.admits_iff.mpr
    ⟨rfl, decide_eq_true hep, rfl, rfl, by simp [Instr.unmodelled]⟩
  obtain ⟨n, hrun, hflag, -, hnak, -⟩ := (hostInSendsThePacket _ _ rfl ha h.armed).1 (h.count.symm ▸ h.inside)
  simp only [← step_wire_encode rfl hsched hs, State.onInterface_bdtAt, State.onInterface_pmaByte, h.count,
    h.stored] at hrun
  refine ⟨_, hrun, by simp [State.returned], by simp [State.returned], ?_, by simpa [State.returned] using hnak,
    by simpa [State.returned] using hflag⟩
  rw [State.returned, State.log_issuer, State.setEpr_issuer, State.onInterface_issuer]
  rfl

/-- Settles O33: TX_SUBMIT leaves the packet staged, and HOST_IN sends what is staged. -/
theorem stagedBytesAreSent : Obligations.StagedBytesAreSent := by
  intro s rest data ep n hsched hitem hl hts hws hidle hp hne hlen hmem
  have hpacket := Params.maxPacket_bounds hl
  have hclamp : s.params.txClamp = s.params.maxPacket / 2 := rfl
  have hpos : data.length ≠ 0 := fun h => hne (List.length_eq_zero_iff.mp h)
  have htake : (data.take n).length = n := by rw [List.length_take]; omega
  obtain ⟨u, hsubmit, hstaged, hu, hport, hlog⟩ :=
    step_txSubmit_staged hsched hts hidle hitem hp hlen rfl (by omega) (by omega) hmem
  have hup : u.params = s.params := hu.params
  have husched : u.schedule = .wire ⟨encode (.hostIn u.params.epIn), []⟩ :: rest := by
    rw [hup, hu.schedule, State.onInterface_schedule]
  obtain ⟨t, hsend, htlog, htpending, htport, hnak, hflag⟩ :=
    step_hostIn_sends (hup ▸ hl) hstaged husched ((hu.stopped .wire).trans hws)
  rw [hup] at htlog hnak hflag
  exact ⟨u, t, hsubmit, hsend, htport.trans hport, hlog ▸ htlog, htpending.trans (hstaged.pending.trans htake),
    hnak, hflag⟩

/-! ## A packet from the host to RX_DRAIN -/

/-- Outside a handler there is none to leave. -/
theorem State.leaveHandler_of_idle {s : State} (h : s.irqActive = false) : s.leaveHandler = s := by
  rw [State.leaveHandler, ← h]

/-- INT_DISPATCH of a packet on `EP_OUT` with the RX buffer empty and the packet inside both memories: CTR_RX is cleared and
RX_COMPLETE's lines publish the packet. -/
theorem exec_intDispatch_rx_publishes {s : State} (ha : s.Admits (.intDispatch s.params.epOut .rx)) (hs : s.Undisturbed)
    (hidle : s.irqActive = false) (hflag : ctrRx (s.eprAt s.params.epOut) = true) (hu : s.rxUnread = 0) (ho : s.rxOffset = 0)
    (hcap : (s.bdtAt s.params.epOut).rxCount.toNat ≤ s.params.rxCap)
    (hmem : (s.bdtAt s.params.epOut).rxAddr.toNat + (s.bdtAt s.params.epOut).rxCount.toNat ≤ s.params.pmaSize) :
    exec (.intDispatch s.params.epOut .rx) s =
      .next ((((s.setEpr s.params.epOut ((s.eprAt s.params.epOut &&& 0x4FFF) ||| 0x2000)).setRxBuf
        (s.rxBuf.storeBytes 0 ((List.range (s.bdtAt s.params.epOut).rxCount.toNat).map fun k =>
          s.pmaByte ((s.bdtAt s.params.epOut).rxAddr.toNat + k)))).setRxUnread
        (s.bdtAt s.params.epOut).rxCount.toNat).returned .unit []) := by
  obtain ⟨-, -, hirq, -, -⟩ := State.admits_iff.mp ha
  have hirq : s.issuer = .irq := by simpa [Instr.allowedFrom] using hirq
  have gap (u : State) (ht : u.taskGaps = s.taskGaps) (hi : u.irqGaps = s.irqGaps) : gapOf .irq u = .on u :=
    hs.gap ht hi .irq
  rw [exec_of_admits ha, hirq, bodyOf, intDispatchBody_eq (by simpa) (by simpa [State.requestPending]),
    gap _ (by simp) (by simp), Flow.andThen_on, handlerLines, gap _ (by simp) (by simp), Flow.andThen_on,
    callbackLines_rx_epOut (by simp),
    rxCompleteLines_undisturbed .irq (fun u ht hi => gap u (ht.trans (by simp)) (hi.trans (by simp))) (by simpa) (by simpa)
      (by simpa) (by simpa)]
  simp only [Flow.andThen_on]
  rw [gap _ (by simp) (by simp)]
  simp [State.returned, State.clearPort_eq, hirq, State.eprWrite, eprWritten_ackRxWord, EpStatus.code, BitVec.and_assoc]
  conv_rhs => rw [← State.leaveHandler_of_idle hidle]
  rfl

/-- What EP_SET_RX_STATUS to VALID leaves. -/
theorem statRx_or_valid (r : Half) : statRx ((r &&& 0xCFFF) ||| 0x3000) = .valid := by
  have hvalid : statRx (eprWritten r (rxStatusWord r .valid)) = .valid := by
    rw [statRx_eprWritten, statRx_rxStatusWord]
    exact (EpStatus.toggled _ _ _).2 rfl
  exact (congrArg statRx (eprWritten_rxStatusWord r .valid)).symm.trans hvalid

/-- HOST_OUT has left this packet in the receive buffer of `EP_OUT`, and its callback is pending. -/
structure State.Waiting (s : State) (data : List Byte) : Prop where
  unread : s.rxUnread = 0
  offset : s.rxOffset = 0
  flag : ctrRx (s.eprAt s.params.epOut) = true
  count : (s.bdtAt s.params.epOut).rxCount.toNat = data.length
  inside : (s.bdtAt s.params.epOut).rxAddr.toNat + data.length ≤ s.params.pmaSize
  stored : (List.range data.length).map (fun k => s.pmaByte ((s.bdtAt s.params.epOut).rxAddr.toNat + k)) = data

/-- RX_COMPLETE has published this packet, and none of it has been read. -/
structure State.Unread (s : State) (data : List Byte) : Prop where
  unread : s.rxUnread = data.length
  offset : s.rxOffset = 0
  flag : ctrRx (s.eprAt s.params.epOut) = false
  copied : (List.range data.length).map s.rxBufByte = data

/-- The armed endpoint takes the host's packet. -/
theorem step_hostOut_waiting {s : State} {rest : List Turn} {data : List Byte} (hl : s.params.Legal)
    (hsched : s.schedule = .wire ⟨encode (.hostOut s.params.epOut (BitVec.ofNat 16 data.length)), data⟩ :: rest)
    (hs : s.stopped .wire = false) (hv : statRx (s.eprAt s.params.epOut) = .valid)
    (hu : s.rxUnread = 0) (ho : s.rxOffset = 0)
    (hroom : data.length ≤ (s.bdtAt s.params.epOut).rxCapacity.val)
    (hmem : (s.bdtAt s.params.epOut).rxAddr.toNat + data.length ≤ s.params.pmaSize) :
    ∃ t, step s = .next t ∧ t.Waiting data ∧ Beside (s.onInterface rest s.taskNext .wire data) t
      ∧ t.wireLog = s.wireLog ++ [.outAck s.params.epOut data] := by
  obtain ⟨-, -, -, ⟨-, hep⟩, -⟩ := hl
  have hword : (BitVec.ofNat 16 data.length).toNat = data.length := Nat.mod_eq_of_lt (by omega)
  have hcount : (BitVec.ofNat 10 data.length).toNat = data.length := Nat.mod_eq_of_lt (by omega)
  have ha : (s.onInterface rest s.taskNext .wire data).Admits (.hostOut s.params.epOut (BitVec.ofNat 16 data.length)) :=
    State.admits_iff.mpr ⟨rfl, decide_eq_true hep, rfl, hword.symm, by simp [Instr.unmodelled]⟩
  obtain ⟨m, n, hrun, hbyte, -, hflag, -⟩ :=
    hostOutAcceptsAPacket _ _ _ rfl ha hv (by rwa [hword]) (by rwa [hword])
  rw [hword] at hrun hbyte
  refine ⟨_, (step_wire_encode rfl hsched hs).trans hrun,
    { unread := ?_, offset := ?_, flag := ?_, count := ?_, inside := ?_, stored := ?_ }, ?_, ?_⟩
  · simpa [State.returned] using hu
  · simpa [State.returned] using ho
  · simpa [State.returned] using hflag
  · simpa [State.returned] using hcount
  · simpa [State.returned] using hmem
  · simpa [State.returned] using map_range_eq_take hbyte
  · constructor <;> simp [State.returned]
  · simp [State.returned]

/-- The callback of the waiting packet publishes it. -/
theorem step_intDispatch_unread {s : State} {rest : List Turn} {data : List Byte} (hl : s.params.Legal) (h : s.Waiting data)
    (hsched : s.schedule = .irq ⟨encode (.intDispatch s.params.epOut .rx), []⟩ [] :: rest) (hs : s.stopped .irq = false)
    (hidle : s.irqActive = false) (hmax : data.length ≤ s.params.rxCap) :
    ∃ t, step s = .next t ∧ t.Unread data ∧ Beside (s.onInterface rest s.taskNext .irq []) t
      ∧ t.wireLog = s.wireLog := by
  obtain ⟨-, -, -, ⟨-, hep⟩, -⟩ := hl
  have ha : (s.onInterface rest s.taskNext .irq []).Admits (.intDispatch s.params.epOut .rx) :=
    State.admits_iff.mpr ⟨rfl, decide_eq_true hep, rfl, rfl, rfl⟩
  have hrun := exec_intDispatch_rx_publishes ha (s.onInterface_undisturbed ..) hidle h.flag h.unread h.offset
    (by simpa [h.count]) (by simpa [h.count] using h.inside)
  obtain ⟨hbyte, -⟩ := (s.onInterface rest s.taskNext .irq []).rxBufByte_copied
    (s.bdtAt s.params.epOut).rxAddr.toNat data.length
  simp only [State.onInterface_params, State.onInterface_bdtAt, State.onInterface_pmaByte, h.count,
    h.stored] at hrun hbyte
  refine ⟨_, (step_irq_encode rfl hsched hs hidle).trans hrun,
    { unread := ?_, offset := ?_, flag := ?_, copied := ?_ }, ?_, ?_⟩
  · simp [State.returned]
  · simpa [State.returned] using h.offset
  · simp [State.returned, ctrRx]
  · refine (List.map_congr_left fun k hk => ?_).trans h.stored
    simpa [State.returned, State.rxBufByte] using hbyte k (List.mem_range.mp hk)
  · constructor <;> simp [State.returned]
  · simp [State.returned]

/-- RX_DRAIN of at least the packet's length reads all of it, and re-arms the endpoint. -/
theorem step_rxDrain_reads {s : State} {rest : List Turn} {data : List Byte} {maxLen : Half} (h : s.Unread data)
    (hsched : s.schedule = .task [] :: rest) (hitem : s.nextItem = some (.cmd ⟨encode (.rxDrain maxLen), []⟩))
    (hs : s.stopped .task = false) (hidle : s.irqActive = false) (hne : data ≠ []) (hcap : data.length ≤ s.params.rxCap)
    (hle : data.length ≤ maxLen.toNat) :
    ∃ t, step s = .next t ∧ t.taskPort = ⟨some (.value data.length), data⟩ ∧ t.rxUnread = 0 ∧ t.rxOffset = 0
      ∧ statRx (t.eprAt s.params.epOut) = .valid ∧ ctrRx (t.eprAt s.params.epOut) = false
      ∧ t.wireLog = s.wireLog ∧ t.fault = s.fault := by
  have hpos : data.length ≠ 0 := fun h => hne (List.length_eq_zero_iff.mp h)
  have hm : maxLen ≠ 0 := by rintro rfl; exact hpos (Nat.le_zero.mp hle)
  have hmin : min maxLen.toNat s.rxUnread = data.length := by rw [h.unread]; omega
  have hrun := drainReturnsUnreadBytes (s.onInterface rest (s.taskNext + 1) .task []) maxLen rfl rfl
    (s.onInterface_undisturbed ..) (h.unread.symm ▸ hpos) hm
  simp only [State.onInterface_rxUnread, State.onInterface_rxOffset, State.onInterface_params, State.onInterface_rxBufByte,
    State.onInterface_eprAt, hmin, h.offset, Nat.zero_add, h.copied] at hrun
  have hrun := hrun hcap
  rw [if_neg (by rw [h.unread]; omega)] at hrun
  refine ⟨_, (step_task_encode rfl hsched hs hidle hitem).trans hrun, State.taskPort_returned (by simp) ..,
    by simp [State.returned], by simp [State.returned], ?_, ?_, by simp [State.returned], by simp [State.returned]⟩
  · simpa [State.returned] using statRx_or_valid _
  · simpa [State.returned, ctrRx] using h.flag

/-- Settles O29: HOST_OUT leaves the packet waiting, its dispatch unread, and RX_DRAIN reads it whole. -/
theorem packetReachesTheApplication : Obligations.PacketReachesTheApplication := by
  intro s rest data maxLen ep hsched hitem hl hstop hidle hv hu ho hne hroom hmax hmem hle
  have hcap : data.length ≤ s.params.rxCap := hmax.trans (maxPacket_le_rxCap _)
  obtain ⟨u, hout, hwaiting, hu, hulog⟩ := step_hostOut_waiting hl hsched (hstop _) hv hu ho hroom hmem
  have hup : u.params = s.params := hu.params
  have husched : u.schedule = .irq ⟨encode (.intDispatch u.params.epOut .rx), []⟩ [] :: .task [] :: rest := by
    rw [hup, hu.schedule, State.onInterface_schedule]
  obtain ⟨v, hdispatch, hunread, hv, hvlog⟩ := step_intDispatch_unread (hup ▸ hl) hwaiting husched
    ((hu.stopped _).trans (by simp [hstop])) (hu.irqActive.trans hidle) (hup ▸ hcap)
  have hvp : v.params = s.params := hv.params.trans hup
  have hvitem : v.nextItem = some (.cmd ⟨encode (.rxDrain maxLen), []⟩) := hv.nextItem.trans (hu.nextItem.trans hitem)
  obtain ⟨t, hdrain, hport, htu, hto, hvalid, hflag, htlog, htfault⟩ := step_rxDrain_reads hunread
    (hv.schedule.trans (State.onInterface_schedule ..)) hvitem ((hv.stopped _).trans (by simp [hu.stopped, hstop]))
    (hv.irqActive.trans (hu.irqActive.trans hidle)) hne (hvp ▸ hcap) hle
  rw [hvp] at hvalid hflag
  exact ⟨u, v, t, hout, hdispatch, hdrain, hport, htu, hto, hvalid, hflag, htlog.trans (hvlog.trans hulog),
    htfault.trans (hv.fault.trans hu.fault)⟩

end Sys2Proof.Machine

/-! The command word (30_encoding.md R100 to R105, R117): the decoder's answer to every word by the format of its opcode, and
with it the encoder as the decoder's inverse, the words refused, and the rows of the opcode map. -/

namespace Sys2Proof

/-! ## What the decoder answers -/

/-- The words of 30_encoding.md R117, by their fields. -/
def Fields.Illegal (f : Fields) : Prop :=
  f.opc ∉ [0x01, 0x02, 0x03, 0x10, 0x11, 0x12, 0x20, 0x21, 0x22, 0x30, 0x31, 0x32, 0x33, 0x40,
      0x50, 0x51, 0x80, 0x81, 0x82, 0x90]
  ∨ f.res ≠ 0
  ∨ (f.opc ∈ [0x01, 0x02, 0x03, 0x90] ∧ f.imm ≠ 0)
  ∨ (f.opc ∈ [0x10, 0x11, 0x21, 0x22, 0x31, 0x32, 0x33, 0x40, 0x50, 0x51, 0x82]
      ∧ (f.ep ≠ 0 ∨ f.sel ≠ 0 ∨ f.imm ≠ 0))
  ∨ (f.opc ∈ [0x12, 0x20, 0x30] ∧ (f.ep ≠ 0 ∨ f.sel ≠ 0))
  ∨ (f.opc ∈ [0x80, 0x81] ∧ f.sel ≠ 0)
  ∨ (f.opc = 0x81 ∧ f.imm ≠ 0)
  ∨ (f.opc = 0x90 ∧ (f.sel = 0b11 ∨ (f.sel = 0b10 ∧ f.ep ≠ 0)))

/-- What a decoder may answer to the fields `f`: a possible command with these fields, or an error where R117 lists them. -/
def Fields.Answer (f : Fields) : Except DecodeError Instr → Prop
  | .ok i => i.fields = f ∧ i.sourceFits = true
  | .error _ => f.Illegal

theorem Fields.mk_eq {f : Fields} {opc : BitVec 8} {ep : EpNum} {sel res : BitVec 2} {imm : Half} (hopc : f.opc = opc)
    (hep : f.ep = ep) (hsel : f.sel = sel) (hres : f.res = res) (himm : f.imm = imm) : ⟨opc, ep, sel, res, imm⟩ = f := by
  rw [← hopc, ← hep, ← hsel, ← hres, ← himm]

/-- The fields of a possible command are none of R117's. -/
theorem Instr.not_illegal_fields {i : Instr} (hi : i.sourceFits = true) : ¬ i.fields.Illegal := by
  cases i with
  | intDispatch ep src => cases src <;> simp_all [fields, Fields.Illegal, sourceFits, DispatchSource.code]
  | _ => simp [fields, Fields.Illegal]

/-- The one code without a dispatch source is the reserved one (30_encoding.md R114). -/
theorem DispatchSource.ofCode_eq_none {c : BitVec 2} : ofCode c = none → c = 0b11 := by
  revert c
  decide

section
variable {f : Fields} {opc : BitVec 8} (hres : f.res = 0) (h : f.opc = opc)
include h

/-- Format E refuses an immediate, before it looks at the endpoint and the selector. -/
theorem Fields.answer_formatE {k : EpNum → BitVec 2 → Except DecodeError Instr} (hopc : opc ∈ [0x01, 0x02, 0x03, 0x90])
    (hk : f.imm = 0 → f.Answer (k f.ep f.sel)) : f.Answer (f.formatE k) := by
  subst h
  rw [formatE]
  split
  next himm => exact hk himm
  next himm => unfold Answer Illegal; tauto

/-- Format W refuses a selector, before it looks at the endpoint and the immediate. -/
theorem Fields.answer_formatW {k : EpNum → Half → Except DecodeError Instr} (hopc : opc ∈ [0x80, 0x81])
    (hk : f.sel = 0 → f.Answer (k f.ep f.imm)) : f.Answer (f.formatW k) := by
  subst h
  rw [formatW]
  split
  next hsel => exact hk hsel
  next hsel => unfold Answer Illegal; tauto

include hres

theorem Fields.answer_formatN {i : Instr}
    (hopc : opc ∈ [0x10, 0x11, 0x21, 0x22, 0x31, 0x32, 0x33, 0x40, 0x50, 0x51, 0x82])
    (hi : i.fields = ⟨opc, 0, 0, 0, 0⟩) (hs : i.sourceFits = true) : f.Answer (f.formatN i) := by
  subst h
  rw [formatN]
  split
  next hzero =>
    obtain ⟨hep, hsel, himm⟩ := hzero
    exact ⟨hi.trans (mk_eq rfl hep hsel hres himm), hs⟩
  next hzero => unfold Answer Illegal; tauto

theorem Fields.answer_formatI {k : Half → Instr} (hopc : opc ∈ [0x12, 0x20, 0x30])
    (hk : ∀ n, (k n).fields = ⟨opc, 0, 0, 0, n⟩ ∧ (k n).sourceFits = true) : f.Answer (f.formatI k) := by
  subst h
  rw [formatI]
  split
  next hzero =>
    obtain ⟨hep, hsel⟩ := hzero
    obtain ⟨hi, hs⟩ := hk f.imm
    exact ⟨hi.trans (mk_eq rfl hep hsel hres rfl), hs⟩
  next hzero => unfold Answer Illegal; tauto

end

/-- A dispatch refuses the reserved source, and SETUP off endpoint 0 (30_encoding.md R114). -/
theorem Fields.answer_decodeDispatch {f : Fields} (hres : f.res = 0) (hopc : f.opc = 0x90) (himm : f.imm = 0) :
    f.Answer (decodeDispatch f.ep f.sel) := by
  have hcode {src : DispatchSource} (hsrc : DispatchSource.ofCode f.sel = some src) : f.sel = src.code :=
    (Machine.DispatchSource.code_ofCode hsrc).symm
  have hfields {src : DispatchSource} (hsrc : DispatchSource.ofCode f.sel = some src) :
      (Instr.intDispatch f.ep src).fields = f := mk_eq hopc rfl (hcode hsrc) hres himm
  rw [decodeDispatch]
  split
  next hsrc => simp [Answer, Illegal, hopc, DispatchSource.ofCode_eq_none hsrc]
  next hsrc =>
    split
    next hep => exact ⟨hfields hsrc, decide_eq_true hep⟩
    next hep => simp_all [Answer, Illegal, DispatchSource.code]
  next src hne hsrc => exact ⟨hfields hsrc, by cases src <;> simp_all [Instr.sourceFits]⟩

/-- The decoder's answer to any fields, row by row of the opcode map (30_encoding.md R104). -/
theorem Fields.answer_decodeFields (f : Fields) : f.Answer (decodeFields f) := by
  rw [decodeFields]
  refine iteInduction (fun hres => .inr (.inl hres)) fun hres => ?_
  replace hres : f.res = 0 := not_not.mp hres
  refine iteInduction (fun (h : f.opc = 0x01) => answer_formatE h (by decide) fun himm =>
    ⟨mk_eq h rfl (Machine.EpStatus.code_ofCode _).symm hres himm, rfl⟩) fun _ => ?_
  refine iteInduction (fun (h : f.opc = 0x02) => answer_formatE h (by decide) fun himm =>
    ⟨mk_eq h rfl (Machine.EpStatus.code_ofCode _).symm hres himm, rfl⟩) fun _ => ?_
  refine iteInduction (fun (h : f.opc = 0x03) => answer_formatE h (by decide) fun himm =>
    ⟨mk_eq h rfl (Machine.EpType.code_ofCode _).symm hres himm, rfl⟩) fun _ => ?_
  refine iteInduction (fun (h : f.opc = 0x10) => answer_formatN hres h (by decide) rfl rfl) fun _ => ?_
  refine iteInduction (fun (h : f.opc = 0x11) => answer_formatN hres h (by decide) rfl rfl) fun _ => ?_
  refine iteInduction (fun (h : f.opc = 0x12) => answer_formatI hres h (by decide) fun _ => ⟨rfl, rfl⟩) fun _ => ?_
  refine iteInduction (fun (h : f.opc = 0x20) => answer_formatI hres h (by decide) fun _ => ⟨rfl, rfl⟩) fun _ => ?_
  refine iteInduction (fun (h : f.opc = 0x21) => answer_formatN hres h (by decide) rfl rfl) fun _ => ?_
  refine iteInduction (fun (h : f.opc = 0x22) => answer_formatN hres h (by decide) rfl rfl) fun _ => ?_
  refine iteInduction (fun (h : f.opc = 0x30) => answer_formatI hres h (by decide) fun _ => ⟨rfl, rfl⟩) fun _ => ?_
  refine iteInduction (fun (h : f.opc = 0x31) => answer_formatN hres h (by decide) rfl rfl) fun _ => ?_
  refine iteInduction (fun (h : f.opc = 0x32) => answer_formatN hres h (by decide) rfl rfl) fun _ => ?_
  refine iteInduction (fun (h : f.opc = 0x33) => answer_formatN hres h (by decide) rfl rfl) fun _ => ?_
  refine iteInduction (fun (h : f.opc = 0x40) => answer_formatN hres h (by decide) rfl rfl) fun _ => ?_
  refine iteInduction (fun (h : f.opc = 0x50) => answer_formatN hres h (by decide) rfl rfl) fun _ => ?_
  refine iteInduction (fun (h : f.opc = 0x51) => answer_formatN hres h (by decide) rfl rfl) fun _ => ?_
  refine iteInduction (fun (h : f.opc = 0x80) => answer_formatW h (by decide) fun hsel =>
    ⟨mk_eq h rfl hsel hres rfl, rfl⟩) fun _ => ?_
  refine iteInduction (fun (h : f.opc = 0x81) => answer_formatW h (by decide) fun hsel => iteInduction
    (fun himm => ⟨mk_eq h rfl hsel hres himm, rfl⟩) fun himm => by unfold Answer Illegal; tauto) fun _ => ?_
  refine iteInduction (fun (h : f.opc = 0x82) => answer_formatN hres h (by decide) rfl rfl) fun _ => ?_
  refine iteInduction (fun (h : f.opc = 0x90) => answer_formatE h (by decide) (answer_decodeDispatch hres h)) fun _ => ?_
  exact .inl (by simp_all)

section
variable {w : CmdWord}

theorem fields_of_decode {i : Instr} (hw : decode w = .ok i) : i.fields = Fields.ofWord w ∧ i.sourceFits = true := by
  rw [decode] at hw
  simpa only [Fields.Answer, hw] using (Fields.ofWord w).answer_decodeFields

theorem illegal_of_decode {e : DecodeError} (hw : decode w = .error e) : (Fields.ofWord w).Illegal := by
  rw [decode] at hw
  simpa only [Fields.Answer, hw] using (Fields.ofWord w).answer_decodeFields

end

/-- Settles O2: the decoder reads back every field that the encoder writes. -/
theorem decodeOfEncodeIsTheCommand : Obligations.DecodeOfEncodeIsTheCommand := fun _ hi => Machine.decode_encode hi

/-- Settles O3: the command has the word's fields, so its word is the word. -/
theorem encodeOfDecodeIsTheWord : Obligations.EncodeOfDecodeIsTheWord := by
  intro w i hw
  obtain ⟨hfields, hi⟩ := fields_of_decode hw
  exact ⟨by rw [encode, hfields, Fields.toWord_ofWord], hi⟩

/-- Settles O5: an error is answered only to a word of R117's list, and no possible command has the fields of one. -/
theorem illegalWordsAreThoseListed : Obligations.IllegalWordsAreThoseListed := by
  intro w
  change (∃ e, decode w = .error e) ↔ (Fields.ofWord w).Illegal
  refine ⟨fun ⟨_, hw⟩ => illegal_of_decode hw, fun hill => ?_⟩
  cases hw : decode w with
  | error e => exact ⟨e, rfl⟩
  | ok i =>
    obtain ⟨hfields, hi⟩ := fields_of_decode hw
    exact absurd (hfields ▸ hill) (Instr.not_illegal_fields hi)

/-! ## The rows of the opcode map -/

/-- The word of a command matches its row (30_encoding.md R105). -/
theorem encode_and_rowMask (i : Instr) : encode i &&& i.rowMask = i.rowMatch := by
  cases i with
  | epSetRxStatus => exact Laws.EncodeRow.epSetRxStatus ..
  | epSetTxStatus => exact Laws.EncodeRow.epSetTxStatus ..
  | epSetType => exact Laws.EncodeRow.epSetType ..
  | rxDrain => exact Laws.EncodeRow.rxDrain _
  | txSubmit => exact Laws.EncodeRow.txSubmit _
  | ctrlSetLineState => exact Laws.EncodeRow.ctrlSetLineState _
  | hostOut => exact Laws.EncodeRow.hostOut ..
  | hostIn => exact Laws.EncodeRow.hostIn _
  | intDispatch => exact Laws.EncodeRow.intDispatch ..
  | _ => rfl

/-- Where the mask is all ones, a matching word has the bits of the match value. -/
theorem extractLsb'_of_and {w m v : CmdWord} (h : w &&& m = v) {k n : Nat} (hm : m.extractLsb' k n = BitVec.allOnes n) :
    w.extractLsb' k n = v.extractLsb' k n := by
  rw [← h, BitVec.extractLsb'_and, hm, BitVec.and_allOnes]

section
variable {w v : CmdWord}

theorem decode_of_rowE (h : w &&& 0xFF03FFFF = v) : decode w = decodeFields
    ⟨v.extractLsb' 24 8, w.extractLsb' 20 4, w.extractLsb' 18 2, v.extractLsb' 16 2, v.extractLsb' 0 16⟩ :=
  congrArg decodeFields (Fields.mk_eq (extractLsb'_of_and h rfl) rfl rfl (extractLsb'_of_and h rfl)
    (extractLsb'_of_and h rfl)).symm

theorem decode_of_rowI (h : w &&& 0xFFFF0000 = v) : decode w = decodeFields
    ⟨v.extractLsb' 24 8, v.extractLsb' 20 4, v.extractLsb' 18 2, v.extractLsb' 16 2, w.extractLsb' 0 16⟩ :=
  congrArg decodeFields (Fields.mk_eq (extractLsb'_of_and h rfl) (extractLsb'_of_and h rfl) (extractLsb'_of_and h rfl)
    (extractLsb'_of_and h rfl) rfl).symm

theorem decode_of_rowHostOut (h : w &&& 0xFF0F0000 = v) : decode w = decodeFields
    ⟨v.extractLsb' 24 8, w.extractLsb' 20 4, v.extractLsb' 18 2, v.extractLsb' 16 2, w.extractLsb' 0 16⟩ :=
  congrArg decodeFields (Fields.mk_eq (extractLsb'_of_and h rfl) rfl (extractLsb'_of_and h rfl)
    (extractLsb'_of_and h rfl) rfl).symm

theorem decode_of_rowHostIn (h : w &&& 0xFF0FFFFF = v) : decode w = decodeFields
    ⟨v.extractLsb' 24 8, w.extractLsb' 20 4, v.extractLsb' 18 2, v.extractLsb' 16 2, v.extractLsb' 0 16⟩ :=
  congrArg decodeFields (Fields.mk_eq (extractLsb'_of_and h rfl) rfl (extractLsb'_of_and h rfl)
    (extractLsb'_of_and h rfl) (extractLsb'_of_and h rfl)).symm

end

/-- A dispatch decodes, or its source is refused (30_encoding.md R114). -/
theorem decodeDispatch_cases (ep : EpNum) (sel : BitVec 2) :
    (∃ src, decodeDispatch ep sel = .ok (.intDispatch ep src)) ∨ decodeDispatch ep sel = .error .reservedSource
      ∨ decodeDispatch ep sel = .error .setupEndpoint := by
  rw [decodeDispatch]
  split
  next => exact .inr (.inl rfl)
  next =>
    split
    next => exact .inl ⟨_, rfl⟩
    next => exact .inr (.inr rfl)
  next src _ _ => exact .inl ⟨src, rfl⟩

/-- A word that matches a row decodes to a command of the row, but for the dispatch words that R117 refuses. -/
theorem decode_of_row {w : CmdWord} {i : Instr} (h : w &&& i.rowMask = i.rowMatch) :
    (∃ j, decode w = .ok j ∧ j.mnemonic = i.mnemonic) ∨ decode w = .error .reservedSource
      ∨ decode w = .error .setupEndpoint := by
  cases i with
  | epSetRxStatus | epSetTxStatus | epSetType =>
    rw [Instr.rowMatch] at h
    exact .inl ⟨_, decode_of_rowE h, rfl⟩
  | rxDrain | txSubmit | ctrlSetLineState =>
    rw [Instr.rowMatch] at h
    exact .inl ⟨_, decode_of_rowI h, rfl⟩
  | hostOut =>
    rw [Instr.rowMatch] at h
    exact .inl ⟨_, decode_of_rowHostOut h, rfl⟩
  | hostIn =>
    rw [Instr.rowMatch] at h
    exact .inl ⟨_, decode_of_rowHostIn h, rfl⟩
  | intDispatch =>
    rw [Instr.rowMatch] at h
    have hw : decode w = decodeDispatch (w.extractLsb' 20 4) (w.extractLsb' 18 2) := decode_of_rowE h
    exact hw ▸ (decodeDispatch_cases _ _).imp_left fun ⟨_, hsrc⟩ => ⟨_, hsrc, rfl⟩
  | _ =>
    obtain rfl : w = _ := (BitVec.and_allOnes (x := w)).symm.trans h
    exact .inl ⟨_, rfl, rfl⟩

/-- Settles O4: a word that decodes is the encoded command, which matches its row. -/
theorem decodeFollowsTheOpcodeRows : Obligations.DecodeFollowsTheOpcodeRows :=
  ⟨fun w i hw => (encodeOfDecodeIsTheWord w i hw).1 ▸ encode_and_rowMask i, fun _ _ h => decode_of_row h⟩

/-- Settles O1, by running the decoder on each word. -/
theorem decodeReadsWrittenWords : Obligations.DecodeReadsWrittenWords := by
  unfold Obligations.DecodeReadsWrittenWords
  decide

end Sys2Proof

/-! Refusals by the operands (30_encoding.md R102, R118; 44_wire_events.md R211, R214, R216) and the commands that read
(41_rx_channel.md R151, 42_tx_channel.md R172, 43_dtr_detector.md R191 to R193). -/

namespace Sys2Proof.Machine

/-! ## Refusals by the operands -/

section
variable {i : Instr} {s : State}

theorem exec_epRange (hi : i.sourceFits = true) (hep : i.endpointExists s.params = false) :
    exec i s = .next (s.refusedWith (.epRange (encode i))) :=
  exec_of_refused (by simp [admission, hi, hep])

variable (hwf : i.WellFormed s.params) (hwho : Instr.allowedFrom s.issuer i = true)
include hwf hwho

theorem exec_operandLength (hlen : s.inData.length ≠ i.dataLength) :
    exec i s = .next (s.refusedWith (.operandLength (encode i) s.inData.length)) := by
  obtain ⟨hep, hi⟩ := Bool.and_eq_true_iff.mp hwf
  exact exec_of_refused (by simp [admission, hi, hep, hwho, hlen])

theorem exec_unmodelled (hlen : s.inData.length = i.dataLength) (hno : Instr.unmodelled s.params s.inData i = true) :
    exec i s = .next (s.refusedWith (.unmodelled (encode i))) := by
  obtain ⟨hep, hi⟩ := Bool.and_eq_true_iff.mp hwf
  exact exec_of_refused (by simp [admission, hi, hep, hwho, hlen, hno])

end

/-- Settles O11, check by check in the order of `admission` (log 12). -/
theorem operandsAreChecked : Obligations.OperandsAreChecked := by
  refine ⟨fun i s ep hi hsrc hep => ?_, fun i s => exec_operandLength, fun s ep len hep hw hlen hne => ?_,
    fun s ep hep hw hd hin hnotify => ?_, fun s hw hlen htype => ?_⟩
  · exact exec_epRange hsrc (by simpa [Instr.endpointExists, hi])
  · have hwf : (Instr.hostOut ep len).WellFormed s.params := Bool.and_eq_true_iff.mpr ⟨decide_eq_true hep, rfl⟩
    exact exec_unmodelled hwf (by rw [hw]; rfl) hlen (decide_eq_true hne)
  · have hwf : (Instr.hostIn ep).WellFormed s.params := Bool.and_eq_true_iff.mpr ⟨decide_eq_true hep, rfl⟩
    exact exec_unmodelled hwf (by rw [hw]; rfl) (by rw [hd]; rfl) (decide_eq_true ⟨hin, hnotify⟩)
  · exact exec_unmodelled rfl (by rw [hw]; rfl) hlen (decide_eq_true htype)

/-! ## The commands that read -/

section
variable {i : Instr} {s : State} (hw : s.issuer ≠ .wire) (hd : s.inData = [])
  (hi : i ∈ [Instr.rxAvailable, .txPending, .dtrAsserted, .rtsAsserted, .resetStateRead])
include hw hd hi

theorem State.admits_of_read : s.Admits i := by
  have hwho : s.issuer = .task ∨ s.issuer = .irq := by cases h : s.issuer <;> simp_all
  refine State.admits_iff.mpr ?_
  fin_cases hi <;> exact ⟨rfl, rfl, decide_eq_true hwho, by rw [hd]; rfl, rfl⟩

/-- A command that reads has one line, which returns what it reads. -/
theorem exec_read {r : Result} (hline : bodyOf i s.issuer (gapOf s.issuer) s.inData (s.clearPort s.issuer) =
    .on ((s.clearPort s.issuer).ret s.issuer r)) : exec i s = .next (s.returned r []) := by
  rw [exec_of_admits (State.admits_of_read hw hd hi), hline]
  simp [State.returned]

end

/-- Settles O21, by the one line of each command. -/
theorem readCommandsReturnWhatTheyRead : Obligations.ReadCommandsReturnWhatTheyRead := by
  intro s hw hd
  refine ⟨exec_read hw hd (by simp) ?_, exec_read hw hd (by simp) ?_, exec_read hw hd (by simp) ?_,
    exec_read hw hd (by simp) ?_, exec_read hw hd (by simp) ?_⟩
  · simp [bodyOf, rxAvailableBody]
  · simp [bodyOf, txPendingBody]
  · simp [bodyOf, dtrAssertedBody, Result.ofBool]
  · simp [bodyOf, rtsAssertedBody, Result.ofBool]
  · rw [bodyOf, resetStateReadBody, State.clearPort_resetState]
    cases s.resetState <;> rfl

end Sys2Proof.Machine

/-! The flow control commands with nothing between their lines (40_flow_control.md R130 to R137): each replaces one
field of one register, and so issued twice leaves what it leaves once. -/

namespace Sys2Proof.Machine

/-! ## One field replaced -/

/-- Undisturbed, the command keeps the bits `keep` of `EPR[ep]`, sets those of `field`, and returns `()`. -/
def ReplacesField (i : Instr) (ep : EpNum) (keep field : Half) : Prop :=
  ∀ s : State, s.Undisturbed → s.Admits i →
    exec i s = .next ((s.setEpr ep ((s.eprAt ep &&& keep) ||| field)).returned .unit [])

/-- A register replaced between the clearing of the issuer's port and the return. -/
theorem State.setEpr_clearPort_ret (s : State) (ep : EpNum) (v : Half) (r : Result) :
    (((s.clearPort s.issuer).setEpr ep v).ret s.issuer r).dropGaps = (s.setEpr ep v).returned r [] := by
  simp [State.returned, State.clearPort_eq]

section
variable (ep : EpNum)

theorem epSetRxStatus_replacesField (st : EpStatus) :
    ReplacesField (.epSetRxStatus ep st) ep 0xCFFF (st.code.setWidth 16 <<< 12) := by
  intro s hs ha
  rw [exec_epSetRxStatus_of_gap ep (hs.gap (by simp) (by simp) _) ha, State.clearPort_eprAt, eprWritten_rxStatusWord,
    State.setEpr_clearPort_ret]
  rfl

theorem epSetTxStatus_replacesField (st : EpStatus) :
    ReplacesField (.epSetTxStatus ep st) ep 0xFFCF (st.code.setWidth 16 <<< 4) := by
  intro s hs ha
  rw [exec_epSetTxStatus_of_gap ep (hs.gap (by simp) (by simp) _) ha, State.clearPort_eprAt, eprWritten_txStatusWord,
    State.setEpr_clearPort_ret]
  rfl

theorem epSetType_replacesField (ty : EpType) :
    ReplacesField (.epSetType ep ty) ep 0xF9FF (ty.code.setWidth 16 <<< 9) := by
  intro s hs ha
  rw [exec_epSetType_of_gap ep (hs.gap (by simp) (by simp) _) ha, State.clearPort_eprAt, eprWritten_typeWord,
    State.setEpr_clearPort_ret]
  rfl

end

/-- Settles O18: each of the three passes every check of admission, and replaces its field. -/
theorem flowControlCommandsComplete : Obligations.FlowControlCommandsComplete := by
  intro s ep hep hw hd hs
  have hwho : s.issuer = .task ∨ s.issuer = .irq := by cases h : s.issuer <;> simp_all
  have hlen : s.inData.length = 0 := by rw [hd]; rfl
  exact ⟨
    fun st => epSetRxStatus_replacesField ep st s hs <| State.admits_iff.mpr
      ⟨rfl, decide_eq_true hep, decide_eq_true hwho, hlen, rfl⟩,
    fun st => epSetTxStatus_replacesField ep st s hs <| State.admits_iff.mpr
      ⟨rfl, decide_eq_true hep, decide_eq_true hwho, hlen, rfl⟩,
    fun ty => epSetType_replacesField ep ty s hs <| State.admits_iff.mpr
      ⟨rfl, decide_eq_true hep, decide_eq_true hwho, hlen, rfl⟩⟩

/-! ## Issued twice -/

/-- A refusal after a refusal leaves the marks as they are: the first one's information is kept (log 12). -/
theorem State.refusedWith_refusedWith (s : State) (r q : RefusalInfo) :
    (s.refusedWith r).refusedWith q = s.refusedWith r := by
  cases hi : s.issuer <;> cases hr : s.refusal <;>
    simp [State.refusedWith, State.refuse, State.stop, State.dropGaps, State.setGaps, hi, hr]

/-- A field replaced twice by the same bits is a field replaced once, even where they overlap the bits kept. -/
theorem replaced_twice (r keep field : Half) :
    (((r &&& keep) ||| field) &&& keep) ||| field = (r &&& keep) ||| field := by
  ext i hi
  cases h : keep[i] <;> simp [h]

/-- A second command that returns leaves its own result on the port. -/
theorem State.returned_returned (s : State) (r q : Result) (data bytes : List Byte) :
    (s.returned r data).returned q bytes = s.returned q bytes := by
  cases hi : s.issuer <;> simp [State.returned, State.dropGaps, State.setGaps, State.setPort, hi]

/-- Run again on what it has left, a replacing command finds its field replaced and its port returned. -/
theorem State.replaced_returned_twice (s : State) (ep : EpNum) (keep field : Half) {t : State}
    (ht : t = (s.setEpr ep ((s.eprAt ep &&& keep) ||| field)).returned .unit []) :
    (t.setEpr ep ((t.eprAt ep &&& keep) ||| field)).returned .unit [] = t := by
  have hreg : t.eprAt ep = (s.eprAt ep &&& keep) ||| field := by simp [ht, State.returned]
  have hport : t.returned .unit [] = t := by rw [ht, State.returned_returned]
  rw [hreg, replaced_twice, ← hreg, State.setEpr_eprAt, hport]

/-- A command that is refused, or replaces a field, leaves nothing for a second run to change. -/
theorem ReplacesField.idempotent {i : Instr} {ep : EpNum} {keep field : Half} (hi : ReplacesField i ep keep field)
    {s t u : State} (hs : s.Undisturbed) (ht : exec i s = .next t) (hu : exec i t = .next u) : u = t := by
  cases ha : admission s.params s.issuer s.inData i with
  | some r =>
    obtain rfl : s.refusedWith r = t := Host.Outcome.next.inj ((exec_of_refused ha).symm.trans ht)
    have hagain : exec i (s.refusedWith r) = .next ((s.refusedWith r).refusedWith r) :=
      exec_of_refused (by simpa [State.refusedWith] using ha)
    rw [Host.Outcome.next.inj (hu.symm.trans hagain), State.refusedWith_refusedWith]
  | none =>
    have hleft := Host.Outcome.next.inj (ht.symm.trans (hi s hs ha))
    have hagain := hi t (by rw [hleft]; exact ⟨rfl, rfl⟩)
      (State.Admits.congr ha (by simp [hleft, State.returned]) (by simp [hleft, State.returned])
        (by simp [hleft, State.returned]))
    rw [Host.Outcome.next.inj (hu.symm.trans hagain), s.replaced_returned_twice ep keep field hleft]

/-- Settles O19: each of the three replaces one field, or is refused. -/
theorem statusCommandsAreIdempotent : Obligations.StatusCommandsAreIdempotent := by
  intro s t u ep st ty hs i hi
  fin_cases hi
  · exact (epSetRxStatus_replacesField ep st).idempotent hs
  · exact (epSetTxStatus_replacesField ep st).idempotent hs
  · exact (epSetType_replacesField ep ty).idempotent hs

end Sys2Proof.Machine

/-! What stops a command of the two channels, RX_DRAIN of an empty buffer, RX_DRAINs of any sizes, and the receive callback
(41_rx_channel.md R150 to R155, 60_exceptions.md R233, R234, R240). -/

namespace Sys2Proof.Machine

/-! ## Commands that fault -/

/-! A port cleared before another element changes is as well cleared after it, and a handler entered so. -/

@[simp] theorem State.enterHandler_clearPort (s : State) (who : Agent) :
    (s.clearPort who).enterHandler = s.enterHandler.clearPort who := s.enterHandler_setPort who Port.empty

@[simp] theorem State.setEpr_clearPort (s : State) (who : Agent) (ep : EpNum) (v : Half) :
    (s.clearPort who).setEpr ep v = (s.setEpr ep v).clearPort who := s.setEpr_setPort who Port.empty ep v

@[simp] theorem State.setEpr_enterHandler (s : State) (ep : EpNum) (v : Half) :
    s.enterHandler.setEpr ep v = (s.setEpr ep v).enterHandler := rfl

/-- Nothing falls between the lines of a command that begins in a state that lists no moves. -/
theorem State.Undisturbed.gap_clearPort {s : State} (h : s.Undisturbed) (who : Agent) (u : State)
    (ht : u.taskGaps = (s.clearPort who).taskGaps) (hi : u.irqGaps = (s.clearPort who).irqGaps) : gapOf who u = .on u :=
  h.gap (ht.trans (s.clearPort_taskGaps who)) (hi.trans (s.clearPort_irqGaps who)) who

/-- A command whose lines have led to `u`, but for its port, and raise a fault there ends with `u` faulted. -/
theorem exec_of_raise {i : Instr} {s u : State} {f : FaultInfo} (ha : s.Admits i) (hu : u.issuer = s.issuer)
    (hlines : bodyOf i s.issuer (gapOf s.issuer) s.inData (s.clearPort s.issuer) =
      .off ((u.clearPort s.issuer).raise s.issuer f)) : exec i s = .next (u.faulted f) := by
  rw [exec_of_admits ha, hlines, State.faulted, hu]
  rfl

theorem State.admits_rxDrain {s : State} (hi : s.issuer = .task) (hd : s.inData = []) (maxLen : Half) :
    s.Admits (.rxDrain maxLen) :=
  State.admits_iff.mpr ⟨rfl, rfl, by rw [hi]; rfl, by rw [hd]; rfl, rfl⟩

/-- The packet in the receive buffer of `EP_OUT` is longer than the RX buffer, or else reaches beyond packet memory, and `f` says
so: what RX_COMPLETE's line 3 raises. -/
def State.PacketFault (s : State) (f : FaultInfo) : Prop :=
  let len := (s.bdtAt s.params.epOut).rxCount.toNat
  let addr := (s.bdtAt s.params.epOut).rxAddr.toNat
  s.params.rxCap < len ∧ f = .rxOversize len
    ∨ len ≤ s.params.rxCap ∧ s.params.pmaSize < addr + len ∧ f = .pmaRange addr len

theorem State.PacketFault.clearPort {s : State} {f : FaultInfo} (h : s.PacketFault f) (who : Agent) :
    (s.clearPort who).PacketFault f := by
  simpa [State.PacketFault] using h

section
variable {gap : Gap} {s : State} (who : Agent)

/-- RX_COMPLETE's line 1 with bytes unread or an offset left. -/
theorem rxCompleteLines_reentry (h : s.rxUnread ≠ 0 ∨ s.rxOffset ≠ 0) :
    rxCompleteLines who gap s = .off (s.raise who (.rxReentry s.rxUnread s.rxOffset)) := by
  rw [rxCompleteLines, if_pos h]

variable (hg : ∀ u : State, u.taskGaps = s.taskGaps → u.irqGaps = s.irqGaps → gap u = .on u)
include hg

/-- RX_COMPLETE's lines 1 to 3 with nothing between them, on an empty buffer and a packet that does not fit: the endpoint is
NAK when line 3 faults. -/
theorem rxCompleteLines_beyond {f : FaultInfo} (hu : s.rxUnread = 0) (ho : s.rxOffset = 0) (hf : s.PacketFault f) :
    rxCompleteLines who gap s =
      .off ((s.setEpr s.params.epOut ((s.eprAt s.params.epOut &&& 0xCFFF) ||| 0x2000)).raise who f) := by
  rw [rxCompleteLines, if_neg (by simp [hu, ho]), hg _ rfl rfl, Flow.andThen_on,
    epSetRxStatusLines_undisturbed (hg _ rfl rfl), Flow.andThen_on, hg _ (by rfl) (by rfl), Flow.andThen_on]
  obtain ⟨hcap, rfl⟩ | ⟨hcap, hmem, rfl⟩ := hf
  · rw [if_pos (by exact hcap)]
    rfl
  · rw [if_neg (by exact Nat.not_lt.mpr hcap), State.readPma_beyond (by exact hmem), Flow.orRaise_error]
    rfl

variable {n : Nat} (data : List Byte) (hn : n ≠ 0)
include hn

/-- RX_DRAIN of bytes beyond RX_CAP faults when line 2 reads them. -/
theorem rxDrainBody_beyond {maxLen : Half} (hmin : min maxLen.toNat s.rxUnread = n)
    (hcap : s.params.rxCap < s.rxOffset + n) :
    rxDrainBody maxLen who gap data s = .off (s.raise who (.rxOversize n)) := by
  unfold rxDrainBody
  simp only [hmin, if_neg hn, hg s rfl rfl, Flow.andThen_on, State.readRxBuf_beyond hcap, Flow.orRaise_error]

/-- TX_SUBMIT of bytes beyond PMA_SIZE faults when line 2 writes them. -/
theorem txSubmitBody_beyond {len : Half} (hmin : min len.toNat s.params.txClamp = n) (hp : s.txPending = 0)
    (hdata : data.length = len.toNat) (hmem : s.params.pmaSize < (s.bdtAt s.params.epIn).txAddr.toNat + n) :
    txSubmitBody len who gap data s = .off (s.raise who (.pmaRange (s.bdtAt s.params.epIn).txAddr.toNat n)) := by
  have htake : (data.take n).length = n := by rw [List.length_take]; omega
  unfold txSubmitBody
  rw [hmin, if_neg (by simp [hp, hn]), hg s rfl rfl, Flow.andThen_on, State.writePma_beyond (by rwa [htake]), htake,
    Flow.orRaise_error]

end

/-- Settles O23: line 1 faults before anything is done, line 3 after the endpoint is NAK. -/
theorem rxCompleteFaults : Obligations.RxCompleteFaults := by
  intro s hi hd ep len addr naked
  have ha : s.Admits .rxComplete := State.admits_iff.mpr ⟨rfl, rfl, by rw [hi]; rfl, by rw [hd]; rfl, rfl⟩
  have beyond {f : FaultInfo} (hs : s.Undisturbed) (hu : s.rxUnread = 0) (ho : s.rxOffset = 0) (hf : s.PacketFault f) :
      exec .rxComplete s = .next (naked.faulted f) := by
    refine exec_of_raise ha rfl ?_
    rw [bodyOf, rxCompleteBody, rxCompleteLines_beyond s.issuer (hs.gap_clearPort s.issuer) (by simpa) (by simpa)
      (hf.clearPort s.issuer)]
    simp [naked, ep]
  refine ⟨fun h => exec_of_raise ha rfl ?_, fun hs hu ho hcap => beyond hs hu ho (.inl ⟨hcap, rfl⟩),
    fun hs hu ho hcap hmem => beyond hs hu ho (.inr ⟨hcap, hmem, rfl⟩)⟩
  rw [bodyOf, rxCompleteBody, rxCompleteLines_reentry s.issuer (by simpa)]
  simp

/-- Settles O27: each access is the first thing its command does, so that the fault finds the state as it was. -/
theorem accessesBeyondTheBuffersFault : Obligations.AccessesBeyondTheBuffersFault := by
  constructor
  · intro s maxLen hi hd hs hu hm n hcap
    have hm : maxLen.toNat ≠ 0 := fun h => hm (BitVec.eq_of_toNat_eq h)
    have hn : n ≠ 0 := by omega
    exact exec_of_raise (State.admits_rxDrain hi hd maxLen) rfl <| rxDrainBody_beyond (s := s.clearPort s.issuer) s.issuer
      (hs.gap_clearPort s.issuer) s.inData hn (by simp [n]) (by simpa)
  · intro s len hi hd hs hp n addr hn hmem
    have ha : s.Admits (.txSubmit len) := State.admits_iff.mpr ⟨rfl, rfl, by rw [hi]; rfl, hd, rfl⟩
    refine exec_of_raise ha rfl ?_
    rw [bodyOf, txSubmitBody_beyond (s := s.clearPort s.issuer) s.issuer
      (hs.gap_clearPort s.issuer) _ hn (by simp [n]) (by simpa) hd (by simpa)]
    simp [addr]

/-! ## The receive callback -/

/-- Settles O44: the RX buffer is the old one with the packet's bytes stored from its start. -/
theorem dispatchRxRunsTheReceiveCallback : Obligations.DispatchRxRunsTheReceiveCallback := by
  intro s ep len addr ha hs hidle hflag hu ho hcap hmem
  exact ⟨_, exec_intDispatch_rx_publishes ha hs hidle hflag hu ho hcap hmem, s.rxBufByte_copied addr len⟩

/-- Settles O45: the acknowledgement is done when RX_COMPLETE's line 1 faults, and the handler is never left. -/
theorem dispatchRxReentryFaults : Obligations.DispatchRxReentryFaults := by
  intro s ep ha hs hidle hflag hbusy
  refine exec_of_raise ha rfl ?_
  have gap (u : State) (ht : u.taskGaps = s.taskGaps) (hi : u.irqGaps = s.irqGaps) : gapOf s.issuer u = .on u :=
    hs.gap ht hi s.issuer
  rw [bodyOf, intDispatchBody_eq (by simpa) (by simpa [State.requestPending]), gap _ (by simp) (by simp), Flow.andThen_on,
    handlerLines, gap _ (by simp) (by simp), Flow.andThen_on, callbackLines_rx_epOut (by simp [ep]),
    rxCompleteLines_reentry s.issuer (by simpa)]
  simp [State.eprWrite, eprWritten_ackRxWord]

/-! ## RX_DRAIN that returns no byte -/

section
variable {gap : Gap} {s : State} {maxLen : Half} (who : Agent) (data : List Byte)

theorem rxDrainBody_nothing (h : maxLen = 0 ∨ (s.rxUnread = 0 ∧ s.params.drainEmptyRearms = false)) :
    rxDrainBody maxLen who gap data s = .on (s.ret who (.value 0)) := by
  have hn : min maxLen.toNat s.rxUnread = 0 := Nat.min_eq_zero_iff.mpr (h.imp (congrArg BitVec.toNat) And.left)
  unfold rxDrainBody
  rw [if_pos hn, if_neg]
  rintro ⟨hrearm, hpos, -⟩
  obtain rfl | ⟨-, hno⟩ := h
  · exact absurd hpos (by decide)
  · exact absurd (hrearm.symm.trans hno) (by decide)

theorem rxDrainBody_empty (hu : s.rxUnread = 0) (hm : maxLen ≠ 0) (hrearm : s.params.drainEmptyRearms = true) :
    rxDrainBody maxLen who gap data s = (gap s).andThen (rearmLines 0 who gap) := by
  have hpos : 0 < maxLen.toNat := Nat.pos_of_ne_zero fun h => hm (BitVec.eq_of_toNat_eq h)
  unfold rxDrainBody
  simp [hu, hrearm, hpos]

end

/-- Settles O24: line 1 returns at once, before any move can fall. -/
theorem drainOfNothingChangesNothing : Obligations.DrainOfNothingChangesNothing := by
  intro s maxLen hi hd hnone
  rw [exec_of_admits (State.admits_rxDrain hi hd maxLen), bodyOf, rxDrainBody_nothing s.issuer _ (by simpa)]
  simp [State.returned]

/-- Settles O26: line 1 goes to the re-arm, which returns 0. -/
theorem drainOfNothingRearmsWhenConfigured : Obligations.DrainOfNothingRearmsWhenConfigured := by
  intro s maxLen hi hd hs hu hm hrearm
  have gap (u : State) (ht : u.taskGaps = s.taskGaps) (hi : u.irqGaps = s.irqGaps) : gapOf s.issuer u = .on u :=
    hs.gap ht hi s.issuer
  rw [exec_of_admits (State.admits_rxDrain hi hd maxLen), bodyOf, rxDrainBody_empty s.issuer _ (by simpa) hm (by simpa),
    gap _ (by simp) (by simp), Flow.andThen_on,
    rearmLines_undisturbed 0 s.issuer fun u ht hi => gap u (ht.trans (by simp)) (hi.trans (by simp))]
  simp [State.returned, State.clearPort_eq, EpStatus.code]

/-! ## RX_DRAINs one after another -/

/-- The first `n` unread bytes. -/
def State.unreadBytes (s : State) (n : Nat) : List Byte := (List.range n).map fun k => s.rxBufByte (s.rxOffset + k)

/-- The re-arm of `EP_OUT` has been done (41_rx_channel.md R152, lines 5 to 7). -/
structure State.Rearmed (s : State) : Prop where
  offset : s.rxOffset = 0
  valid : statRx (s.eprAt s.params.epOut) = .valid
  capacity : (s.bdtAt s.params.epOut).rxCapacity = Fin.ofNat 1024 s.params.maxPacket

/-- Between `s` and `t` an undisturbed TASK has drained `n` bytes and issued nothing but RX_DRAIN. Once the buffer is empty the
endpoint is re-armed, if there was a byte to drain or it was so before. -/
structure Drained (n : Nat) (s t : State) : Prop where
  issuer : t.issuer = s.issuer
  inData : t.inData = s.inData
  undisturbed : t.Undisturbed
  params : t.params = s.params
  rxBuf : ∀ a, t.rxBufByte a = s.rxBufByte a
  unread : t.rxUnread = s.rxUnread - n
  offset : n < s.rxUnread → t.rxOffset = s.rxOffset + n
  rearmed : 0 < s.rxUnread ∨ s.Rearmed → s.rxUnread ≤ n → t.Rearmed

theorem Drained.refl {s : State} (hs : s.Undisturbed) : Drained 0 s s :=
  ⟨rfl, rfl, hs, rfl, fun _ => rfl, rfl, fun _ => rfl, fun h hle => h.resolve_left (Nat.not_lt.mpr hle)⟩

theorem Drained.trans {n m : Nat} {s t u : State} (h : Drained n s t) (h' : Drained m t u) : Drained (n + m) s u where
  issuer := h'.issuer.trans h.issuer
  inData := h'.inData.trans h.inData
  undisturbed := h'.undisturbed
  params := h'.params.trans h.params
  rxBuf a := (h'.rxBuf a).trans (h.rxBuf a)
  unread := by rw [h'.unread, h.unread, Nat.sub_sub]
  offset hlt := by
    have hleft := h.unread
    rw [h'.offset (by omega), h.offset (by omega), Nat.add_assoc]
  rearmed hs hle := by
    have hleft := h.unread
    refine h'.rearmed ?_ (by omega)
    by_cases hn : s.rxUnread ≤ n
    · exact .inr (h.rearmed hs hn)
    · exact .inl (by omega)

/-- The unread bytes go on after a drain with those the drain has left. -/
theorem Drained.unreadBytes_add {n m : Nat} {s t : State} (h : Drained n s t) (hm : m ≤ t.rxUnread) :
    s.unreadBytes (n + m) = s.unreadBytes n ++ t.unreadBytes m := by
  have hleft := h.unread
  rw [State.unreadBytes, State.unreadBytes, State.unreadBytes, List.range_add, List.map_append, List.map_map]
  congr 1
  refine List.map_congr_left fun k hk => ?_
  have hk := List.mem_range.mp hk
  simp [h.rxBuf, h.offset (by omega), Nat.add_assoc]

/-- A drain that leaves bytes unread. -/
theorem drained_of_advanced {n : Nat} {s : State} (hn : n < s.rxUnread) (r : Result) (bytes : List Byte) :
    Drained n s (((s.setRxOffset (s.rxOffset + n)).setRxUnread (s.rxUnread - n)).returned r bytes) := by
  constructor
  case rearmed => exact fun _ hle => absurd hle (Nat.not_le.mpr hn)
  all_goals simp [State.returned, State.Undisturbed]

/-- A drain that leaves none, and so re-arms the endpoint. -/
theorem drained_of_rearmed {n : Nat} {s : State} (hn : s.rxUnread ≤ n) (r : Result) (bytes : List Byte) :
    Drained n s (((((s.setRxOffset 0).setRxUnread 0).setRxCapacity s.params.epOut s.params.maxPacket).setEpr s.params.epOut
      ((s.eprAt s.params.epOut &&& 0xCFFF) ||| 0x3000)).returned r bytes) := by
  constructor
  case unread => simp [State.returned, Nat.sub_eq_zero_of_le hn]
  case offset => exact fun hlt => absurd hn (Nat.not_le.mpr hlt)
  case rearmed =>
    refine fun _ _ => ⟨by simp [State.returned], ?_, by simp [State.returned, State.setRxCapacity]⟩
    simpa [State.returned] using statRx_or_valid (s.eprAt s.params.epOut)
  all_goals simp [State.returned, State.Undisturbed]

/-- A drain that only returns. -/
theorem drained_of_returned (s : State) (r : Result) (bytes : List Byte) : Drained 0 s (s.returned r bytes) := by
  constructor
  case rearmed =>
    intro h hle
    obtain ⟨hoffset, hvalid, hroom⟩ := h.resolve_left (Nat.not_lt.mpr hle)
    exact ⟨by simpa [State.returned], by simpa [State.returned], by simpa [State.returned]⟩
  all_goals simp [State.returned, State.Undisturbed]

/-- RX_DRAIN drains `n` bytes: it completes, and its data are the first `n` unread bytes. -/
def DrainsBytes (maxLen : Half) (n : Nat) (s : State) : Prop :=
  ∃ t, exec (.rxDrain maxLen) s = .next t ∧ t.taskPort.data = s.unreadBytes n ∧ Drained n s t

section
variable {s : State} (hi : s.issuer = .task) (hd : s.inData = []) (hs : s.Undisturbed)
include hi hd hs

theorem drainsBytes_of_empty (maxLen : Half) (hu : s.rxUnread = 0) (hm : maxLen ≠ 0)
    (hrearm : s.params.drainEmptyRearms = true) : DrainsBytes maxLen 0 s := by
  have hsame : (s.setRxOffset 0).setRxUnread 0 = s.setRxOffset 0 := by rw [State.setRxUnread, ← hu]; rfl
  have hrun := drainOfNothingRearmsWhenConfigured s maxLen hi hd hs hu hm hrearm
  rw [← hsame] at hrun
  exact ⟨_, hrun, congrArg Port.data (State.taskPort_returned (by exact hi) _ _), drained_of_rearmed hu.le _ _⟩

theorem drainsBytes_of_unread (maxLen : Half) (hu : s.rxUnread ≠ 0) (hm : maxLen ≠ 0)
    (hcap : s.rxOffset + s.rxUnread ≤ s.params.rxCap) : DrainsBytes maxLen (min maxLen.toNat s.rxUnread) s := by
  have hrun := drainReturnsUnreadBytes s maxLen hi hd hs hu hm (by omega)
  refine ⟨_, hrun, ?_, ?_⟩
  · split <;> exact congrArg Port.data (State.taskPort_returned (by exact hi) _ _)
  · split
    next hlt => exact drained_of_advanced (by omega) _ _
    next hge => exact drained_of_rearmed (by omega) _ _

/-- One RX_DRAIN drains as many bytes as it asks for and there are: it returns at once, or re-arms an empty buffer, or reads. -/
theorem drainsBytes_min (maxLen : Half) (hcap : 0 < s.rxUnread → s.rxOffset + s.rxUnread ≤ s.params.rxCap) :
    DrainsBytes maxLen (min maxLen.toNat s.rxUnread) s := by
  by_cases hnone : maxLen = 0 ∨ s.rxUnread = 0 ∧ s.params.drainEmptyRearms = false
  · rw [Nat.min_eq_zero_iff.mpr (hnone.imp (congrArg BitVec.toNat) And.left)]
    exact ⟨_, drainOfNothingChangesNothing s maxLen hi hd hnone, congrArg Port.data (State.taskPort_returned hi _ _),
      drained_of_returned s _ _⟩
  obtain ⟨hm, hrearm⟩ := not_or.mp hnone
  by_cases hu : s.rxUnread = 0
  · rw [hu, Nat.min_zero]
    exact drainsBytes_of_empty hi hd hs maxLen hu hm (by simpa [hu] using hrearm)
  · exact drainsBytes_of_unread hi hd hs maxLen hu hm (hcap (Nat.pos_of_ne_zero hu))

end

/-- RX_DRAINs of any sizes return the first unread bytes, as many as they ask for together and there are. -/
theorem drains_drained {s : State} (hi : s.issuer = .task) (hd : s.inData = []) (hs : s.Undisturbed)
    (hcap : 0 < s.rxUnread → s.rxOffset + s.rxUnread ≤ s.params.rxCap) (sizes : List Half) :
    ∃ t, drains sizes s = some (s.unreadBytes (min (sizes.map BitVec.toNat).sum s.rxUnread), t)
      ∧ Drained (min (sizes.map BitVec.toNat).sum s.rxUnread) s t := by
  induction sizes generalizing s with
  | nil =>
    simp only [drains, List.map_nil, List.sum_nil, Nat.zero_min]
    exact ⟨s, rfl, Drained.refl hs⟩
  | cons size sizes ih =>
    obtain ⟨t, hrun, hdata, ht⟩ := drainsBytes_min hi hd hs size hcap
    have hleft := ht.unread
    have hmin : min ((size :: sizes).map BitVec.toNat).sum s.rxUnread =
        min size.toNat s.rxUnread + min (sizes.map BitVec.toNat).sum t.rxUnread := by
      rw [List.map_cons, List.sum_cons]; omega
    have hcapt : 0 < t.rxUnread → t.rxOffset + t.rxUnread ≤ t.params.rxCap := by
      intro hpos
      have := hcap (by omega)
      rw [ht.params, ht.offset (by omega)]
      omega
    obtain ⟨u, hruns, hu⟩ := ih (ht.issuer.trans hi) (ht.inData.trans hd) ht.undisturbed hcapt
    refine ⟨u, ?_, hmin ▸ ht.trans hu⟩
    rw [drains, hrun]
    simp only [hruns, hdata, Option.map_some, hmin]
    rw [ht.unreadBytes_add (Nat.min_le_right _ _)]

/-- Settles O28: `drains_drained`, by induction on the list of sizes. -/
theorem drainsReturnTheUnreadBytesInOrder : Obligations.DrainsReturnTheUnreadBytesInOrder := by
  intro s sizes hi hd hs hcap total n
  obtain ⟨t, hrun, ht⟩ := drains_drained hi hd hs (fun _ => hcap) sizes
  refine ⟨t, hrun, ht.unread, fun hpos hle => ?_⟩
  obtain ⟨hoffset, hvalid, hroom⟩ := ht.rearmed (.inl hpos) (by omega)
  rw [ht.params] at hvalid hroom
  exact ⟨hoffset, hvalid, hroom⟩

end Sys2Proof.Machine

/-! The transmit channel (42_tx_channel.md R170, R171, R173, R176; 60_exceptions.md R240): TX_SUBMIT that stages nothing,
TX_COMPLETE, raw and as a callback, and PUTC. -/

namespace Sys2Proof.Machine

/-! ## TX_SUBMIT while busy and TX_COMPLETE -/

theorem State.admits_txSubmit {s : State} {len : Half} (hi : s.issuer = .task) (hd : s.inData.length = len.toNat) :
    s.Admits (.txSubmit len) :=
  State.admits_iff.mpr ⟨rfl, rfl, by rw [hi]; rfl, hd, rfl⟩

/-- TX_SUBMIT's line 1 with a packet in flight, or with no byte to send. -/
theorem txSubmitBody_nothing {s : State} {len : Half} (h : s.txPending ≠ 0 ∨ len = 0) (who : Agent) (gap : Gap)
    (data : List Byte) : txSubmitBody len who gap data s = .on (s.ret who (.value 0)) := by
  rw [txSubmitBody, if_pos]
  exact h.imp_right fun hlen => by rw [hlen]; exact Nat.zero_min _

/-- Settles O30: line 1 returns at once, before any move can fall. -/
theorem txSubmitWhileBusyChangesNothing : Obligations.TxSubmitWhileBusyChangesNothing := by
  intro s len hi hd hbusy
  rw [exec_of_admits (State.admits_txSubmit hi hd), bodyOf, txSubmitBody_nothing (by simpa using hbusy)]
  simp [State.returned]

/-- Settles O32: TX_COMPLETE is its one line. -/
theorem txCompleteEndsTheTransmission : Obligations.TxCompleteEndsTheTransmission := by
  intro s hi hd
  have ha : s.Admits .txComplete := State.admits_iff.mpr ⟨rfl, rfl, by rw [hi]; rfl, by rw [hd]; rfl, rfl⟩
  rw [exec_of_admits ha, bodyOf, txCompleteBody, txCompleteLine]
  simp [State.returned, State.clearPort_eq]

/-! ## The transmit callback -/

/-- A handler that changes `tx_pending` is as well entered after the change. -/
@[simp] theorem State.setTxPending_enterHandler (s : State) (n : Nat) :
    s.enterHandler.setTxPending n = (s.setTxPending n).enterHandler := rfl

/-- A handler entered and left outside any other leaves no trace. -/
theorem State.leaveHandler_enterHandler {s : State} (h : s.irqActive = false) : s.enterHandler.leaveHandler = s :=
  State.leaveHandler_of_idle h

/-- The IN slots of the callback table (60_exceptions.md R240): that of `EP_IN` holds TX_COMPLETE, every other is empty. -/
theorem callbackLines_tx (ep : EpNum) (who : Agent) (gap : Gap) (s : State) :
    callbackLines ep .tx who gap s = .on (s.setTxPending (if ep = s.params.epIn then 0 else s.txPending)) := by
  rw [callbackLines]
  split <;> rfl

/-- INT_DISPATCH of a completion, undisturbed: CTR_TX is cleared, and the transmission ends if the endpoint is `EP_IN`. -/
theorem exec_intDispatch_tx {s : State} {ep : EpNum} (ha : s.Admits (.intDispatch ep .tx)) (hs : s.Undisturbed)
    (hidle : s.irqActive = false) (hflag : ctrTx (s.eprAt ep) = true) :
    exec (.intDispatch ep .tx) s = .next (((s.setEpr ep (s.eprAt ep &&& 0xFF7F)).setTxPending
      (if ep = s.params.epIn then 0 else s.txPending)).returned .unit []) := by
  have gap (v : State) (ht : v.taskGaps = s.taskGaps) (hi : v.irqGaps = s.irqGaps) : gapOf s.issuer v = .on v :=
    hs.gap ht hi s.issuer
  rw [exec_of_admits ha, bodyOf, intDispatchBody_eq (by simpa) (by simpa [State.requestPending]), gap _ (by simp) (by simp),
    Flow.andThen_on, handlerLines, gap _ (by simp) (by simp), Flow.andThen_on, callbackLines_tx, Flow.andThen_on,
    gap _ (by simp) (by simp), Flow.andThen_on]
  simp [State.returned, State.clearPort_eq, State.eprWrite, eprWritten_ackTxWord, State.leaveHandler_enterHandler, hidle]

/-- Settles O46: the callback of a completion on `EP_IN` is TX_COMPLETE. -/
theorem dispatchTxEndsTheTransmission : Obligations.DispatchTxEndsTheTransmission := by
  intro s ep ha hs hidle hflag
  rw [exec_intDispatch_tx ha hs hidle hflag, if_pos rfl]

/-! ## PUTC -/

section
variable (s : State) (rest : List Turn) (next : Nat) (who : Agent) (data : List Byte)

@[simp] theorem State.onInterface_taskNext : (s.onInterface rest next who data).taskNext = next := rfl
@[simp] theorem State.onInterface_resetState : (s.onInterface rest next who data).resetState = s.resetState := rfl
@[simp] theorem State.onInterface_ctlDtr : (s.onInterface rest next who data).ctlDtr = s.ctlDtr := rfl
@[simp] theorem State.onInterface_ctlRts : (s.onInterface rest next who data).ctlRts = s.ctlRts := rfl
@[simp] theorem State.onInterface_irqActive : (s.onInterface rest next who data).irqActive = s.irqActive := rfl
@[simp] theorem State.onInterface_setupPending : (s.onInterface rest next who data).setupPending = s.setupPending := rfl
@[simp] theorem State.onInterface_refused : (s.onInterface rest next who data).refused = s.refused := rfl
@[simp] theorem State.onInterface_refusal : (s.onInterface rest next who data).refusal = s.refusal := rfl

end

/-- TASK's turn of PUTC is one TX_SUBMIT of its byte, and what PUTC makes of the answer (42_tx_channel.md R176). -/
theorem step_putc {s u : State} {rest : List Turn} {b : Byte} (hsched : s.schedule = .task [] :: rest)
    (hs : s.taskStopped = false) (hidle : s.irqActive = false) (hitem : s.nextItem = some (.putc b))
    (hrun : exec (.txSubmit 1) (s.onInterface rest s.taskNext .task [b]) = .next u) : step s = .next (putcAfter u) := by
  have hitem' : State.nextItem { s with schedule := rest } = some (.putc b) := hitem
  have hword : issueWord .task ⟨putcWord, [b]⟩ [] [] { s with schedule := rest } = .next u :=
    (issueWord_of_ok (c := ⟨putcWord, [b]⟩) decode_putcWord).trans hrun
  rw [step_task hsched hs hidle, taskTurn, hitem']
  simp only [hword]

section
variable {s : State} (hi : s.issuer = .task)
include hi

/-- PUTC loops on a TX_SUBMIT that has accepted no byte: no result is left on TASK's port. -/
theorem putcAfter_returned_zero : putcAfter (s.returned (.value 0) []) = (s.clearPort .task).dropGaps := by
  rw [State.returned, hi]
  rfl

/-- PUTC returns `()` after a TX_SUBMIT that has accepted its byte, and TASK's next command comes. -/
theorem putcAfter_returned_one :
    putcAfter (s.returned (.value 1) []) = (s.setTaskNext (s.taskNext + 1)).returned .unit [] := by
  rw [State.returned, State.returned, State.setTaskNext_issuer, hi]
  rfl

end

/-- PUTC's TX_SUBMIT with nothing in flight: its byte is staged at `tx_addr`, by TX_SUBMIT's rule for one byte. -/
theorem exec_txSubmit_one {s : State} {b : Byte} (hi : s.issuer = .task) (hd : s.inData = [b]) (hs : s.Undisturbed)
    (hl : s.params.Legal) (hp : s.txPending = 0)
    (hmem : (s.bdtAt s.params.epIn).txAddr.toNat + 1 ≤ s.params.pmaSize) :
    ∃ m, exec (.txSubmit 1) s = .next (((((s.setPma m).setTxCount s.params.epIn 1).setTxPending 1).setEpr s.params.epIn
        ((s.eprAt s.params.epIn &&& 0xFFCF) ||| 0x0030)).returned (.value 1) [])
      ∧ (s.setPma m).pmaByte (s.bdtAt s.params.epIn).txAddr.toNat = b := by
  have hclamp : s.params.txClamp = s.params.maxPacket / 2 := rfl
  have hpacket := Params.maxPacket_bounds hl
  have hmin : min (1 : Half).toNat s.params.txClamp = 1 := Nat.min_eq_left (show 1 ≤ _ by omega)
  obtain ⟨m, hrun, hbyte, -⟩ := txSubmitStagesThePacket s 1 hi (by rw [hd]; rfl) hs hp (by rw [hmin]; decide) (by rwa [hmin])
  rw [hmin] at hrun hbyte
  have hfirst := hbyte 0 Nat.one_pos
  rw [hd] at hfirst
  exact ⟨m, hrun, (Option.some.inj hfirst).symm⟩

/-- Settles O8: PUTC's TX_SUBMIT accepts no byte while a packet is in flight, and its byte otherwise. -/
theorem putcSubmitsUntilAccepted : Obligations.PutcSubmitsUntilAccepted := by
  intro s rest b hsched hs hidle hitem hl
  refine ⟨fun hbusy => ?_, fun hp hmem => ?_⟩
  · have hrun := txSubmitWhileBusyChangesNothing (s.onInterface rest s.taskNext .task [b]) 1 rfl rfl (.inl hbusy)
    refine ⟨_, step_putc hsched hs hidle hitem hrun, ?_⟩
    rw [putcAfter_returned_zero (s.onInterface_issuer ..)]
    refine ⟨by simp, rfl, by simp, ?_⟩
    simp [SameRegisters, SameDescriptors, SameMemory, SameRxCounters, SameLines, SameEvents, SameMarks]
  · obtain ⟨m, hrun, hbyte⟩ := exec_txSubmit_one (s := s.onInterface rest s.taskNext .task [b]) rfl rfl
      (s.onInterface_undisturbed ..) hl hp hmem
    refine ⟨_, step_putc hsched hs hidle hitem hrun, ?_⟩
    rw [putcAfter_returned_one rfl]
    refine ⟨rfl, rfl, rfl, ?_, hbyte, ?_⟩
    · simp [State.returned]
    · simpa [State.returned] using statTx_or_valid _

end Sys2Proof.Machine

/-! The detector and the control lines: CTRL_SET_LINE_STATE (43_dtr_detector.md R190, R194), INT_DISPATCH of a SETUP packet
(60_exceptions.md R240), and that nothing but IRQ and RESET moves them (43_dtr_detector.md R202). -/

namespace Sys2Proof.Machine

/-! ## CTRL_SET_LINE_STATE -/

/-- The detector's table as two tests (43_dtr_detector.md R194): only the row of HIGH tells a falling DTR from a low one. -/
theorem ResetState.next_eq (r : ResetState) (dtr : Bool) :
    r.next dtr = if dtr then .high else if r = .high then .negedge else .low := by
  cases r <;> cases dtr <;> rfl

/-- Settles O34: CTRL_SET_LINE_STATE is its one line, and the detector's table comes down to two tests. -/
theorem lineStateRequestLatchesAndAdvances : Obligations.LineStateRequestLatchesAndAdvances := by
  intro s value hi hd
  have ha : s.Admits (.ctrlSetLineState value) :=
    State.admits_iff.mpr ⟨rfl, rfl, by rw [hi]; rfl, by rw [hd]; rfl, rfl⟩
  rw [exec_of_admits ha, bodyOf, ctrlSetLineStateBody, State.returned, hi, ← ResetState.next_eq]
  rfl

/-! ## INT_DISPATCH of a SETUP packet -/

/-- The classifier's line lists no moves and drops none. -/
@[simp] theorem classRequestLine_gaps (p : SetupPacket) (s : State) :
    (classRequestLine p s).taskGaps = s.taskGaps ∧ (classRequestLine p s).irqGaps = s.irqGaps := by
  unfold classRequestLine
  split <;> exact ⟨rfl, rfl⟩

/-- Line 5 of INT_DISPATCH with a packet pending. -/
theorem setupLine_pending {s : State} {p : SetupPacket} (h : s.setupPending = some p) :
    setupLine s = .on ((classRequestLine p (s.setSetupPending none)).log (.setup p.supported)) := by
  rw [setupLine, h]

/-- INT_DISPATCH of a pending SETUP packet, undisturbed: line 5 alone, whose handler leaves no trace. -/
theorem exec_intDispatch_setup {s : State} {p : SetupPacket} (ha : s.Admits (.intDispatch 0 .setup)) (hs : s.Undisturbed)
    (hidle : s.irqActive = false) (hp : s.setupPending = some p) :
    exec (.intDispatch 0 .setup) s = .next
      (((classRequestLine p (s.setSetupPending none)).log (.setup p.supported)).returned .unit []) := by
  obtain ⟨-, -, hirq, -, -⟩ := State.admits_iff.mp ha
  have hirq : s.issuer = .irq := by simpa [Instr.allowedFrom] using hirq
  have gap (v : State) (ht : v.taskGaps = s.taskGaps) (hi : v.irqGaps = s.irqGaps) : gapOf .irq v = .on v :=
    hs.gap ht hi .irq
  rw [exec_of_admits ha, hirq, bodyOf, intDispatchBody_eq (by simpa) (by simp [State.requestPending, hp]),
    gap _ (by simp) (by simp), Flow.andThen_on, handlerLines, setupLine_pending (p := p) (by simpa), Flow.andThen_on,
    gap _ (by simp) (by simp), Flow.andThen_on]
  conv_rhs => rw [← State.leaveHandler_of_idle hidle]
  simp only [classRequestLine]
  split <;> simp [State.returned, State.clearPort_eq, hirq] <;> rfl

/-- Settles O48: the classifier's two tests of the packet, for its line and for its answer. -/
theorem dispatchSetupClassifiesThePacket : Obligations.DispatchSetupClassifiesThePacket := by
  intro s p ha hs hidle hp classInterface supported u
  have hclass : p.classInterface = true ↔ classInterface := decide_eq_true_iff
  have hsup : p.supported = supported := by
    rw [Bool.eq_iff_iff, SetupPacket.supported_iff, hclass, decide_eq_true_iff]
  rw [exec_intDispatch_setup ha hs hidle hp, hsup]
  simp only [classRequestLine, hclass, u]

/-! ## Changes and flows that keep the lines -/

/-- Every move in the list is a WIRE step. -/
def AllWire (bs : List Between) : Prop := ∀ b ∈ bs, ∃ c, b = .quiet (.wire c)

/-- From a state that lists WIRE steps alone between TASK's lines, the detector and the control lines are kept, and so is
what is said of the list. -/
def LinesKept (s t : State) : Prop := (∀ g ∈ s.taskGaps, AllWire g) → SameLines s t ∧ ∀ g ∈ t.taskGaps, AllWire g

theorem SameLines.trans {s t u : State} (h : SameLines s t) (h' : SameLines t u) : SameLines s u := by
  obtain ⟨hr, hd, ht⟩ := h
  obtain ⟨hr', hd', ht'⟩ := h'
  exact ⟨hr'.trans hr, hd'.trans hd, ht'.trans ht⟩

theorem LinesKept.of_same {s t : State} (hl : SameLines s t) (hg : t.taskGaps = s.taskGaps) : LinesKept s t :=
  fun hs => ⟨hl, hg ▸ hs⟩

theorem LinesKept.refl (s : State) : LinesKept s s := .of_same ⟨rfl, rfl, rfl⟩ rfl

theorem LinesKept.trans {s t u : State} (h : LinesKept s t) (h' : LinesKept t u) : LinesKept s u := by
  intro hs
  obtain ⟨hl, hg⟩ := h hs
  obtain ⟨hl', hg'⟩ := h' hg
  exact ⟨hl.trans hl', hg'⟩

theorem LinesKept.raise (s : State) (who : Agent) (f : FaultInfo) : LinesKept s (s.raise who f) :=
  .of_same (by simp [SameLines]) (by simp)

theorem LinesKept.refuse (s : State) (who : Agent) (r : RefusalInfo) : LinesKept s (s.refuse who r) :=
  .of_same (by simp [SameLines]) (by simp)

theorem LinesKept.setPort (s : State) (who : Agent) (p : Port) : LinesKept s (s.setPort who p) :=
  .of_same (by simp [SameLines]) (by simp)

/-- However the flow stands, it has kept the lines since `s`. -/
def Flow.KeepsLines (s : State) (x : Flow) : Prop := ∀ t, x.Reaches t → LinesKept s t

/-- What falls between lines keeps the detector and the control lines. -/
def Gap.KeepsLines (gap : Gap) : Prop := ∀ s, (gap s).KeepsLines s

theorem gapNone_keepsLines : Gap.KeepsLines Flow.on := fun s _ h => h.on ▸ .refl s

/-! ## Commands of TASK and WIRE -/

section
variable {who : Agent} {i : Instr} (hw : who ≠ .irq) (hi : Instr.allowedFrom who i = true)
include hw hi

/-- The context table (60_exceptions.md R245) gives the commands that drive the lines to IRQ alone. -/
theorem Instr.not_drivesLines :
    (∀ v, i ≠ .ctrlSetLineState v) ∧ i ≠ .classRequest ∧ ∀ ep src, i ≠ .intDispatch ep src := by
  refine ⟨?_, ?_, ?_⟩
  · rintro v rfl
    exact hw (by simpa [Instr.allowedFrom] using hi)
  · rintro rfl
    exact hw (by simpa [Instr.allowedFrom] using hi)
  · rintro ep src rfl
    exact hw (by simpa [Instr.allowedFrom] using hi)

theorem Line.linesKept {s t : State} (h : Line who i s t) : LinesKept s t := by
  obtain ⟨hset, hclass, hdispatch⟩ := Instr.not_drivesLines hw hi
  exact .of_same (h.framed.lines hset hclass fun ep => hdispatch ep .setup) h.gaps.1

end

section
variable {who : Agent} {gap : Gap} (hw : who ≠ .irq) (hp : gap.KeepsParams) (hg : gap.KeepsLines)
include hw hp hg

theorem bodyOf_keepsLines {i : Instr} {data : List Byte} {s : State} (ha : admission s.params who data i = none) :
    (bodyOf i who gap data s).KeepsLines s := by
  obtain ⟨-, -, hi, -⟩ := (State.admits_iff (s := { s with issuer := who, inData := data })).mp ha
  obtain ⟨-, -, hdispatch⟩ := Instr.not_drivesLines hw hi
  have halong := bodyOf_along hp ha hdispatch
  have hruns {u : State} (h : Runs who i gap s u) : LinesKept s u :=
    h.keeps LinesKept.refl LinesKept.trans hp (fun _ _ _ hl => hl.linesKept hw hi) fun u v h => hg u v (.inl h)
  rintro t (hon | hoff)
  · rw [hon] at halong
    exact hruns halong
  · rw [hoff] at halong
    obtain ⟨u, hu, ⟨-, f, rfl⟩ | hcut⟩ := halong
    · exact (hruns hu).trans (.raise u who f)
    · exact (hruns hu).trans (hg u t (.inr hcut))

/-- A whole command of an agent other than IRQ, refused or run, keeps the lines. -/
theorem runCommand_keepsLines (c : Command) (s : State) : (runCommand who gap c s).KeepsLines s := by
  intro t h
  obtain ⟨-, ⟨r, -, rfl⟩ | ⟨i, -, ha, hrun⟩⟩ := runCommand_reaches h
  · exact .refuse s who r
  · rw [hrun] at h
    exact (LinesKept.setPort s who _).trans (bodyOf_keepsLines hw hp hg (s := s.clearPort who) (by simpa using ha) t h)

end

/-! ## What falls between the lines of TASK -/

theorem Flow.KeepsLines.rejoin {s : State} {x : Flow} (h : x.KeepsLines s) : x.rejoin.KeepsLines s := by
  cases x with
  | on t => exact h
  | off t => exact fun u hu => h u (.inr (congrArg Flow.off hu.on.symm))
  | stuck f => exact h

theorem wireStep_keepsLines (c : Command) (s : State) : (betweenMove (.quiet (.wire c)) s).KeepsLines s :=
  (runCommand_keepsLines (by decide) gapNone_keepsParams gapNone_keepsLines c s).rejoin

theorem betweenMoves_keepsLines {bs : List Between} (hbs : AllWire bs) (s : State) :
    (betweenMoves bs s).KeepsLines s := by
  induction bs generalizing s with
  | nil => exact gapNone_keepsLines s
  | cons b bs ih =>
    obtain ⟨⟨c, rfl⟩, hrest⟩ := List.forall_mem_cons.mp hbs
    intro t h
    obtain hoff | ⟨u, hon, h⟩ := Flow.Reaches.andThen (k := betweenMoves bs) h
    · exact wireStep_keepsLines c s t (.inr hoff)
    · exact (wireStep_keepsLines c s u (.inl hon)).trans (ih hrest u t h)

theorem taskGap_keepsLines : Gap.KeepsLines taskGap := by
  intro s t h hs
  unfold taskGap at h
  split at h
  · exact gapNone_keepsLines s t h hs
  · rename_i g rest hgaps
    obtain ⟨hfirst, hrest⟩ := List.forall_mem_cons.mp (hgaps ▸ hs)
    exact betweenMoves_keepsLines hfirst (s.setGaps rest s.irqGaps) t h hrest

theorem gapOf_keepsLines {who : Agent} (hw : who ≠ .irq) : Gap.KeepsLines (gapOf who) := by
  cases who with
  | task => exact taskGap_keepsLines
  | irq => exact absurd rfl hw
  | wire => exact gapNone_keepsLines

/-! ## Turns and steps -/

/-- A word issued by an agent other than IRQ, with WIRE steps alone between TASK's lines, keeps the lines. -/
theorem issueWord_sameLines {who : Agent} {c : Command} {tg : List (List Between)} {ig : List (List Quiet)} {s t : State}
    (hw : who ≠ .irq) (hm : s.mayStep who = none) (htg : ∀ g ∈ tg, AllWire g)
    (h : issueWord who c tg ig s = .next t) : SameLines s t := by
  rw [issueWord_eq_runCommand hm] at h
  obtain ⟨u, hu, rfl⟩ := Flow.outcome_next h
  exact (runCommand_keepsLines hw (gapOf_keepsParams who) (gapOf_keepsLines hw) c (s.latch who c.data tg ig) u hu htg).1

theorem putcAfter_sameLines (s : State) : SameLines s (putcAfter s) := by
  unfold putcAfter
  split <;> exact ⟨rfl, rfl, rfl⟩

theorem configureTurn_sameLines {s t : State} (h : configureTurn s = .next t) : SameLines s t := by
  unfold configureTurn at h
  split at h
  · cases h
  · split at h
    · cases h
      exact ⟨rfl, rfl, rfl⟩
    · cases h

theorem taskTurn_sameLines {gaps : List (List Between)} {s t : State} (hm : s.mayStep .task = none)
    (hgaps : ∀ g ∈ gaps, AllWire g) (h : taskTurn gaps s = .next t) : SameLines s t := by
  unfold taskTurn at h
  split at h
  · cases h
  · exact issueWord_sameLines (s := s.setTaskNext (s.taskNext + 1)) (who := .task) (by decide) hm hgaps h
  · split at h
    · rename_i u hu
      cases h
      exact (issueWord_sameLines (by decide) hm hgaps hu).trans (putcAfter_sameLines u)
    · cases h
    · cases h

/-- TASK's turn without IRQ and RESET has WIRE steps alone between its lines. -/
theorem allWire_of_withoutIrqAndReset {gaps : List (List Between)} (h : (Turn.task gaps).withoutIrqAndReset = true) :
    ∀ g ∈ gaps, AllWire g := by
  intro g hg b hb
  have hwire := List.all_eq_true.mp (List.all_eq_true.mp h g hg) b hb
  cases b with
  | quiet q =>
    cases q with
    | wire c => exact ⟨c, rfl⟩
    | reset => cases hwire
  | irq c ig => cases hwire

theorem takeTurn_sameLines {tn : Turn} {s t : State} (htn : tn.withoutIrqAndReset = true) (h : takeTurn tn s = .next t) :
    SameLines s t := by
  cases tn with
  | reset => cases htn
  | configure => exact configureTurn_sameLines h
  | wire c =>
    obtain ⟨hm, h⟩ := agentTurn_next h
    exact issueWord_sameLines (by decide) hm (List.forall_mem_nil _) h
  | irq c gaps => cases htn
  | task gaps =>
    obtain ⟨hm, h⟩ := agentTurn_next h
    exact taskTurn_sameLines hm (allWire_of_withoutIrqAndReset htn) h

/-- Settles O36: the commands that drive the lines are IRQ's, and no other agent's commands, nor WIRE steps between their lines,
write them. -/
theorem lineStateMovesOnlyInInterruptContext : Obligations.LineStateMovesOnlyInInterruptContext := by
  intro s t hturn h
  cases hsched : s.schedule with
  | nil =>
    rw [step, hsched] at h
    cases h
    exact ⟨rfl, rfl, rfl⟩
  | cons tn rest =>
    rw [step_of_turn hsched] at h
    exact takeTurn_sameLines (s := { s with schedule := rest }) (hturn tn (by rw [hsched]; rfl)) h

end Sys2Proof.Machine

/-! ## HOST_OUT beyond its bounds -/

namespace Sys2Proof.Machine

section
variable {s : State} {ep : EpNum} {len : Half} {who : Agent} {gap : Gap} {data : List Byte}

/-- HOST_OUT to an armed endpoint of a packet longer than the capacity. -/
theorem hostOutBody_overCapacity (hv : statRx (s.eprAt ep) = .valid)
    (hcap : (s.bdtAt ep).rxCapacity.val < len.toNat) :
    hostOutBody ep len who gap data s = .stuck (.packetOverCapacity ep len.toNat) := by
  rw [hostOutBody, hv]
  exact if_pos hcap

/-- HOST_OUT to an armed endpoint of a packet that fits the capacity and reaches beyond packet memory. -/
theorem hostOutBody_beyondPma (hv : statRx (s.eprAt ep) = .valid)
    (hcap : len.toNat ≤ (s.bdtAt ep).rxCapacity.val)
    (hmem : s.params.pmaSize < (s.bdtAt ep).rxAddr.toNat + data.length) :
    hostOutBody ep len who gap data s = .off (s.raise who (.pmaRange (s.bdtAt ep).rxAddr.toNat data.length)) := by
  rw [hostOutBody, hv]
  simp only [if_neg (Nat.not_lt.mpr hcap), State.writePma_beyond hmem, Flow.orRaise_error]

end

/-- Settles O39: the capacity is tested before packet memory, and the write that reaches beyond it stores nothing. -/
theorem hostOutBeyondItsBounds : Obligations.HostOutBeyondItsBounds := by
  intro s ep len _ ha hv addr
  obtain ⟨-, -, -, (hlen : s.inData.length = len.toNat), -⟩ := State.admits_iff.mp ha
  refine ⟨fun hcap => ?_, fun hcap hmem => ?_⟩
  · rw [exec_of_admits ha, bodyOf, hostOutBody_overCapacity (by simpa) (by simpa), Flow.outcome_stuck]
  · refine exec_of_raise ha rfl ?_
    rw [bodyOf, hostOutBody_beyondPma (by simpa) (by simpa) (by simpa [hlen]), hlen]
    simp [addr]

end Sys2Proof.Machine

/-! Refusals (60_exceptions.md R232, R235, R236, R245) and INT_DISPATCH: when it is no move, what it does for an empty callback
slot, and the words that acknowledge a request (R238 to R241). -/

namespace Sys2Proof.Machine

/-! ## What a refusal changes and what it leaves -/

/-- A refusal stops the agent that issued the command, and no other. -/
theorem State.refuse_stopped (s : State) (who : Agent) (r : RefusalInfo) (a : Agent) :
    (s.refuse who r).stopped a = (s.stopped a || a = who) := by
  by_cases h : a = who
  · subst h
    simp
  · have hother : (s.refuse who r).stopped a = s.stopped a := by
      rw [State.refuse, State.stopped_stop_other _ h]
      cases a <;> rfl
    simp [hother, h]

/-- Settles O9: a refused command ends with the mark, which is all that a refusal writes. -/
theorem refusedCommandChangesOnlyTheMark : Obligations.RefusedCommandChangesOnlyTheMark := by
  intro i s r h
  refine ⟨_, exec_of_refused h, by simp, fun hnone => ?_, fun q hq => ?_, fun who => ?_, by simp, by simp, ?_⟩
  · simp [State.refuse_refusal, hnone]
  · simp [State.refuse_refusal, hq]
  · rw [State.dropGaps_stopped, State.refuse_stopped]
  · simp [SameRegisters, SameDescriptors, SameMemory, SameRxCounters, SameLines, SameEvents, SameArguments]

/-! ## The context table and the commands without a meaning -/

/-- An agent is one of the two contexts of R245, or the wire. -/
theorem Agent.software_iff (who : Agent) : who = .task ∨ who = .irq ↔ who ≠ .wire := by
  cases who <;> decide

/-- A well-formed command from an agent that may not issue it is refused with CONTEXT, whatever its data operand. -/
theorem exec_context {i : Instr} {s : State} (hwf : i.WellFormed s.params) (hwho : Instr.allowedFrom s.issuer i = false) :
    exec i s = .next (s.refusedWith (.context (encode i) s.issuer)) := by
  obtain ⟨hep, hi⟩ := Bool.and_eq_true_iff.mp hwf
  exact exec_of_refused (by simp [admission, hi, hep, hwho])

/-- Settles O10: the rows of the table, and the third check of `admission` for every other issuer. -/
theorem commandsAreRefusedOutsideTheirContext : Obligations.CommandsAreRefusedOutsideTheirContext := by
  refine ⟨fun who ep st ty i hi => ?_, fun who i hi => ?_, fun who n i hi => ?_, fun who v ep src i hi => ?_,
    fun who ep n i hi => ?_, fun i s => exec_context⟩
  · fin_cases hi <;> exact decide_eq_true_iff.trans who.software_iff
  · fin_cases hi <;> exact decide_eq_true_iff.trans who.software_iff
  · fin_cases hi <;> exact decide_eq_true_iff
  · fin_cases hi <;> exact decide_eq_true_iff
  · fin_cases hi <;> exact decide_eq_true_iff

/-- Settles O12: both pass every check of `admission` but the last. -/
theorem enableAndDisableAreRefused : Obligations.EnableAndDisableAreRefused := by
  have henable : encode .enable = 0x50000000 := by decide
  have hdisable : encode .disable = 0x51000000 := by decide
  refine ⟨henable, hdisable, fun s hi hd => ⟨?_, ?_⟩⟩
  · rw [exec_unmodelled rfl (by rw [hi]; rfl) (by rw [hd]; rfl) rfl, henable]
  · rw [exec_unmodelled rfl (by rw [hi]; rfl) (by rw [hd]; rfl) rfl, hdisable]

/-! ## INT_DISPATCH -/

/-- Which requests are pending does not depend on the ports. -/
@[simp] theorem State.clearPort_requestPending (s : State) (who : Agent) (ep : EpNum) (src : DispatchSource) :
    (s.clearPort who).requestPending ep src = s.requestPending ep src := by
  cases src <;> simp [State.requestPending]

/-- Settles O43: the dispatch is tested before its first line. -/
theorem dispatchNeedsAPendingRequest : Obligations.DispatchNeedsAPendingRequest := by
  intro s ep src ha h
  have hstuck : ¬((s.clearPort s.issuer).irqActive = false ∧ (s.clearPort s.issuer).requestPending ep src = true) := by
    simpa [or_iff_not_imp_left] using h
  rw [exec_of_admits ha, bodyOf, intDispatchBody_stuck hstuck, Flow.outcome_stuck]

/-- The OUT slot of every endpoint other than `EP_OUT` is empty (60_exceptions.md R240). -/
theorem callbackLines_rx_empty {ep : EpNum} {s : State} (h : ep ≠ s.params.epOut) (who : Agent) (gap : Gap) :
    callbackLines ep .rx who gap s = .on s := if_neg h

/-- INT_DISPATCH of a packet on an endpoint whose OUT slot is empty, undisturbed: CTR_RX is cleared. -/
theorem exec_intDispatch_rx_empty {s : State} {ep : EpNum} (ha : s.Admits (.intDispatch ep .rx)) (hs : s.Undisturbed)
    (hidle : s.irqActive = false) (hflag : ctrRx (s.eprAt ep) = true) (hep : ep ≠ s.params.epOut) :
    exec (.intDispatch ep .rx) s = .next ((s.setEpr ep (s.eprAt ep &&& 0x7FFF)).returned .unit []) := by
  have gap (v : State) (ht : v.taskGaps = s.taskGaps) (hi : v.irqGaps = s.irqGaps) : gapOf s.issuer v = .on v :=
    hs.gap ht hi s.issuer
  rw [exec_of_admits ha, bodyOf, intDispatchBody_eq (by simpa) (by simpa [State.requestPending]), gap _ (by simp) (by simp),
    Flow.andThen_on, handlerLines, gap _ (by simp) (by simp), Flow.andThen_on, callbackLines_rx_empty (by simpa),
    Flow.andThen_on, gap _ (by simp) (by simp), Flow.andThen_on]
  simp [State.returned, State.clearPort_eq, State.eprWrite, eprWritten_ackRxWord, State.leaveHandler_enterHandler, hidle]

/-- Settles O47: without a callback the acknowledgement is all that the handler does. -/
theorem dispatchOfAnEmptySlotOnlyAcknowledges : Obligations.DispatchOfAnEmptySlotOnlyAcknowledges := by
  refine ⟨fun s ep => exec_intDispatch_rx_empty, fun s ep ha hs hidle hflag hep => ?_⟩
  rw [exec_intDispatch_tx ha hs hidle hflag, if_neg hep]
  rfl

/-! ## The acknowledging words -/

/-- Registers that agree under a mask have the mask's bits in common. -/
theorem getLsbD_of_and_eq {w r m : Half} (h : w &&& m = r &&& m) {i : Nat} (hi : m.getLsbD i = true) :
    w.getLsbD i = r.getLsbD i := by
  simpa [hi] using congrArg (·.getLsbD i) h

/-- A word that inverts no toggle bit and stores the read-write fields of `r` (60_exceptions.md R241). -/
abbrev StoresOnly (r w : Half) : Prop := w &&& 0x7070 = 0 ∧ w &&& 0x070F = r &&& 0x070F

theorem storesOnly_ackRxWord (r : Half) : StoresOnly r (ackRxWord r) := by
  constructor <;>
  · ext i hi
    interval_cases i <;> simp [ackRxWord, RW_FIELDS]

theorem storesOnly_ackTxWord (r : Half) : StoresOnly r (ackTxWord r) := by
  constructor <;>
  · ext i hi
    interval_cases i <;> simp [ackTxWord, RW_FIELDS]

/-- A bus write of such a word leaves the toggles, the statuses and SETUP as it finds them, and the read-write fields as they
are in `r`. -/
theorem fields_eprWritten_storesOnly (o : Half) {r w : Half} (h : StoresOnly r w) :
    let n := eprWritten o w
    dtogRx n = dtogRx o ∧ statRx n = statRx o ∧ dtogTx n = dtogTx o ∧ statTx n = statTx o ∧ setupBit n = setupBit o
      ∧ epType n = epType r ∧ epKind n = epKind r ∧ endpointAddress n = endpointAddress r := by
  obtain ⟨htoggle, hstored⟩ := h
  have toggle {i : Nat} (hi : (0x7070 : Half).getLsbD i = true) : w.getLsbD i = (0 : Half).getLsbD i :=
    getLsbD_of_and_eq htoggle hi
  have stored {i : Nat} (hi : (0x070F : Half).getLsbD i = true) : w.getLsbD i = r.getLsbD i :=
    getLsbD_of_and_eq hstored hi
  have hdtogRx : dtogRx w = false := toggle rfl
  have hdtogTx : dtogTx w = false := toggle rfl
  have hstatRx : statRx w = .disabled :=
    congrArg EpStatus.ofCode (extractLsb'_congr fun i _ _ => toggle (by interval_cases i <;> rfl))
  have hstatTx : statTx w = .disabled :=
    congrArg EpStatus.ofCode (extractLsb'_congr fun i _ _ => toggle (by interval_cases i <;> rfl))
  have htype : epType w = epType r :=
    congrArg EpType.ofCode (extractLsb'_congr fun i _ _ => stored (by interval_cases i <;> rfl))
  have haddr : endpointAddress w = endpointAddress r :=
    extractLsb'_congr fun i _ _ => stored (by interval_cases i <;> rfl)
  exact ⟨by simp [dtogRx_eprWritten, hdtogRx], statRx_eprWritten_of_disabled o hstatRx,
    by simp [dtogTx_eprWritten, hdtogTx], statTx_eprWritten_of_disabled o hstatTx, setupBit_eprWritten o w,
    (epType_eprWritten o w).trans htype, (epKind_eprWritten o w).trans (stored rfl),
    (endpointAddress_eprWritten o w).trans haddr⟩

theorem ctr_ackRxWord (r : Half) : ctrRx (ackRxWord r) = false ∧ ctrTx (ackRxWord r) = true := by
  simp [ctrRx, ctrTx, ackRxWord, RW_FIELDS]

theorem ctr_ackTxWord (r : Half) : ctrTx (ackTxWord r) = false ∧ ctrRx (ackTxWord r) = true := by
  simp [ctrRx, ctrTx, ackTxWord, RW_FIELDS]

/-- Settles O49: the word's 0 clears the named flag, its 1 keeps the other, and the rest is any such word's. -/
theorem acknowledgeClearsOnlyItsFlag : Obligations.AcknowledgeClearsOnlyItsFlag := by
  intro o r
  constructor
  · obtain ⟨hrx, htx⟩ := ctr_ackRxWord r
    obtain ⟨htoggle, hstored⟩ := storesOnly_ackRxWord r
    exact ⟨hrx, htx, htoggle, hstored, by simp [ctrRx_eprWritten, hrx], by simp [ctrTx_eprWritten, htx],
      fields_eprWritten_storesOnly o (storesOnly_ackRxWord r)⟩
  · obtain ⟨htx, hrx⟩ := ctr_ackTxWord r
    obtain ⟨htoggle, hstored⟩ := storesOnly_ackTxWord r
    exact ⟨htx, hrx, htoggle, hstored, by simp [ctrTx_eprWritten, htx], by simp [ctrRx_eprWritten, hrx],
      fields_eprWritten_storesOnly o (storesOnly_ackTxWord r)⟩

end Sys2Proof.Machine

/-! What CONFIGURE writes, register by register and descriptor by descriptor (70_reset_and_hazards.md R262). -/

namespace Sys2Proof.Machine

/-- An endpoint at 1 or above is not the control endpoint. -/
theorem zero_ne_ep_of_one_le {ep : EpNum} (h : 1 ≤ ep.toNat) : 0 ≠ ep := by
  rintro rfl
  exact absurd h (by decide)

/-- CONFIGURE's turn comes, right after RESET and with legal parameters. -/
theorem configureTurn_legal {s : State} (hf : s.fresh = true) (hl : s.params.Legal) :
    configureTurn s = .next s.configure := by
  rw [configureTurn, if_neg (by simp [hf]), if_pos hl]

section
variable (s : State)

theorem State.eprAt_configure_epNotify :
    s.configure.eprAt s.params.epNotify = 0x0620 ||| s.params.epNotify.setWidth 16 :=
  State.eprAt_setEpr_same _ _ _

theorem State.eprAt_configure_of_ne_cdc {e : EpNum} (ho : e ≠ s.params.epOut) (hi : e ≠ s.params.epIn)
    (hn : e ≠ s.params.epNotify) : s.configure.eprAt e = (s.setEpr 0 0x3220).eprAt e :=
  calc s.configure.eprAt e
    _ = (((s.setEpr 0 0x3220).setEpr s.params.epOut _).setEpr s.params.epIn _).eprAt e := State.eprAt_setEpr_other _ _ hn
    _ = ((s.setEpr 0 0x3220).setEpr s.params.epOut _).eprAt e := State.eprAt_setEpr_other _ _ hi
    _ = (s.setEpr 0 0x3220).eprAt e := State.eprAt_setEpr_other _ _ ho

theorem State.eprAt_configure_other {e : EpNum} (h0 : e ≠ 0) (ho : e ≠ s.params.epOut) (hi : e ≠ s.params.epIn)
    (hn : e ≠ s.params.epNotify) : s.configure.eprAt e = s.eprAt e :=
  (s.eprAt_configure_of_ne_cdc ho hi hn).trans (s.eprAt_setEpr_other _ h0)

theorem State.bdtAt_configure_other {e : EpNum} (ho : e ≠ s.params.epOut) (hi : e ≠ s.params.epIn) :
    s.configure.bdtAt e = s.bdtAt e :=
  (State.bdtAt_setBdt_other _ _ hi).trans (State.bdtAt_setBdt_other _ _ ho)

end

section
variable {s : State} (hl : s.params.Legal)
include hl

theorem State.eprAt_configure_zero : s.configure.eprAt 0 = 0x3220 := by
  obtain ⟨-, -, ⟨hi, -⟩, ⟨ho, -⟩, ⟨hn, -⟩, -⟩ := hl
  rw [s.eprAt_configure_of_ne_cdc (zero_ne_ep_of_one_le ho) (zero_ne_ep_of_one_le hi) (zero_ne_ep_of_one_le hn),
    State.eprAt_setEpr_same]

theorem State.bdtAt_configure_epOut :
    s.configure.bdtAt s.params.epOut = { s.bdtAt s.params.epOut with
      rxAddr := s.params.pmaRxAddr, rxCapacity := Fin.ofNat 1024 s.params.maxPacket } := by
  obtain ⟨-, -, -, -, -, ⟨hout, -, -⟩, -⟩ := hl
  exact (State.bdtAt_setBdt_other _ _ hout).trans (State.bdtAt_setBdt_same _ _ _)

/-- The IN endpoint's descriptor is read after the OUT endpoint's has been written, so it is another one. -/
theorem State.bdtAt_configure_epIn :
    s.configure.bdtAt s.params.epIn = { s.bdtAt s.params.epIn with txAddr := s.params.pmaTxAddr } := by
  obtain ⟨-, -, -, -, -, ⟨hout, -, -⟩, -⟩ := hl
  have hread (u : State) (d : Descriptor) : (u.setBdt s.params.epOut d).bdtAt s.params.epIn = u.bdtAt s.params.epIn :=
    u.bdtAt_setBdt_other d hout.symm
  exact (State.bdtAt_setBdt_same _ _ _).trans
    (congrArg (fun d : Descriptor => { d with txAddr := s.params.pmaTxAddr }) (hread _ _))

end

/-- Settles O51: the turn's next state is `configure` of the state with its turn taken, and the three CDC endpoints are
distinct and none is endpoint 0, so that no write replaces another. -/
theorem configureSetsTheCdcEndpoints : Obligations.ConfigureSetsTheCdcEndpoints := by
  intro s rest h hf hl
  let u : State := { s with schedule := rest }
  exact ⟨u.configure, (step_of_turn h).trans (configureTurn_legal (s := u) hf hl),
    State.eprAt_configure_zero (s := u) hl, State.eprAt_configure_epOut (s := u) hl,
    State.eprAt_configure_epIn (s := u) hl, u.eprAt_configure_epNotify, fun _ => u.eprAt_configure_other,
    State.bdtAt_configure_epOut (s := u) hl, State.bdtAt_configure_epIn (s := u) hl, fun _ => u.bdtAt_configure_other, rfl⟩

end Sys2Proof.Machine
